-- ==== Sys2Proof/Word.lean ====
section
/-! DEFINITION. The two value types of the manual (spec/00_scope.md rule R9): a byte is an unsigned 8-bit value, a word
an unsigned 32-bit value. Everything computed from them (byte fields, GF(2^8) arithmetic, padding) stands in
Sys2Proof/Machine/. -/
namespace Sys2Proof

/-- R9: "A byte is an unsigned 8-bit value 0x00-0xFF". -/
abbrev Byte := BitVec 8

/-- R9: "a word is an unsigned 32-bit value". -/
abbrev Word := BitVec 32

end Sys2Proof
end

