-- ==== Sys2Proof/Syntax.lean ====
section
/-! DEFINITION. The 14 commands of AES-CORE, one constructor per row of spec/opcode_table.json (30_encoding.md rule R93).
A command is a 32-bit word written to CMD; all operands but RIDX are implicit (R92). -/
namespace Sys2Proof

/-- The commands of R93, in the table's order. -/
inductive Instr where
  /-- EXPAND_KEY, 0x01 (41_key_schedule.md R137). -/
  | expandKey
  /-- ENC_BLOCK, 0x02 (43_block_cipher.md R183). -/
  | encBlock
  /-- DEC_BLOCK, 0x03 (43_block_cipher.md R184). -/
  | decBlock
  /-- ECB_ENC, 0x10 (44_modes.md R203). -/
  | ecbEnc
  /-- ECB_DEC, 0x11 (44_modes.md R204). -/
  | ecbDec
  /-- CBC_ENC, 0x12 (44_modes.md R205). -/
  | cbcEnc
  /-- CBC_DEC, 0x13 (44_modes.md R206). -/
  | cbcDec
  /-- SUB_BYTES, 0x20 (42_round_engine.md R158). -/
  | subBytes
  /-- INV_SUB_BYTES, 0x21 (42_round_engine.md R159). -/
  | invSubBytes
  /-- SHIFT_ROWS, 0x22 (42_round_engine.md R160). -/
  | shiftRows
  /-- INV_SHIFT_ROWS, 0x23 (42_round_engine.md R161). -/
  | invShiftRows
  /-- MIX_COLUMNS, 0x24 (42_round_engine.md R162). -/
  | mixColumns
  /-- INV_MIX_COLUMNS, 0x25 (42_round_engine.md R163). -/
  | invMixColumns
  /-- ADD_ROUND_KEY, 0x26, with the round-key index RIDX = cmd[11:8], "zero-extended ... range 0..15" (R92, R164). -/
  | addRoundKey (ridx : Nat)
deriving DecidableEq, Repr

end Sys2Proof
end

