-- ==== Sys2Proof/WellFormed.lean ====
section
/-! DEFINITION. Which terms of `Instr` are commands an encoding can carry: RIDX is a 4-bit field (30_encoding.md R92). An
RIDX above the variant's Nr is well formed: R96 makes it an error at execution, not an illegal command. -/
namespace Sys2Proof

/-- R92: "RIDX (bits 11:8) is an unsigned 4-bit immediate ... range 0..15"; every other operand is implicit. -/
def Instr.wellFormed : Instr → Bool
  | .expandKey => true
  | .encBlock => true
  | .decBlock => true
  | .ecbEnc => true
  | .ecbDec => true
  | .cbcEnc => true
  | .cbcDec => true
  | .subBytes => true
  | .invSubBytes => true
  | .shiftRows => true
  | .invShiftRows => true
  | .mixColumns => true
  | .invMixColumns => true
  | .addRoundKey ridx => decide (ridx < 16)

end Sys2Proof
end

