-- ==== Sys2Proof/Decode.lean ====
section
/-! DEFINITION. The command decoder and encoder (30_encoding.md R90-R97), both written from the opcode map R93. There is
one format and one length: the 32-bit word written to CMD. An illegal word is rejected by name; the machine completes it
with ERR_ILLEGAL_CMD whatever the name (R95: "All illegal words behave the same"). -/
namespace Sys2Proof

/-! ## The fields of a command word (R90) -/

/-- R90: OPC, bits 7:0. -/
def opcField (c : Word) : BitVec 8 := c.extractLsb' 0 8

/-- R90, R92: RIDX, bits 11:8, "ridx = zext(cmd[11:8]), range 0..15, not scaled". -/
def ridxField (c : Word) : BitVec 4 := c.extractLsb' 8 4

/-- R90, R94: the reserved bits 31:12. -/
def reservedField (c : Word) : BitVec 20 := c.extractLsb' 12 20

/-! ## The opcode map (R93) -/

/-- One row of R93's table: a word `c` selects the row when `c & mask == pattern` (the table's `match`); `build` makes
the command from RIDX, which only ADD_ROUND_KEY uses (R92). -/
structure OpcodeRow where
  pattern : Word
  mask : Word
  build : Nat → Instr

/-- R93: the 14 rows, in the table's order. -/
def opcodeMap : List OpcodeRow :=
  [⟨0x00000001, 0xFFFFFFFF, fun _ => .expandKey⟩, ⟨0x00000002, 0xFFFFFFFF, fun _ => .encBlock⟩,
   ⟨0x00000003, 0xFFFFFFFF, fun _ => .decBlock⟩, ⟨0x00000010, 0xFFFFFFFF, fun _ => .ecbEnc⟩,
   ⟨0x00000011, 0xFFFFFFFF, fun _ => .ecbDec⟩, ⟨0x00000012, 0xFFFFFFFF, fun _ => .cbcEnc⟩,
   ⟨0x00000013, 0xFFFFFFFF, fun _ => .cbcDec⟩, ⟨0x00000020, 0xFFFFFFFF, fun _ => .subBytes⟩,
   ⟨0x00000021, 0xFFFFFFFF, fun _ => .invSubBytes⟩, ⟨0x00000022, 0xFFFFFFFF, fun _ => .shiftRows⟩,
   ⟨0x00000023, 0xFFFFFFFF, fun _ => .invShiftRows⟩, ⟨0x00000024, 0xFFFFFFFF, fun _ => .mixColumns⟩,
   ⟨0x00000025, 0xFFFFFFFF, fun _ => .invMixColumns⟩, ⟨0x00000026, 0xFFFFF0FF, fun ridx => .addRoundKey ridx⟩]

/-- R93: "a word `c` selects the row when `c & mask == match`". -/
def OpcodeRow.selectedBy (row : OpcodeRow) (c : Word) : Bool := c &&& row.mask == row.pattern

/-- R94: the 13 operation codes that take no RIDX. -/
def plainOpcodes : List (BitVec 8) :=
  [0x01, 0x02, 0x03, 0x10, 0x11, 0x12, 0x13, 0x20, 0x21, 0x22, 0x23, 0x24, 0x25]

/-- R94's predicate, as the spec writes it. -/
def legal (c : Word) : Bool :=
  reservedField c == 0 && (plainOpcodes.contains (opcField c) && ridxField c == 0 || opcField c == 0x26)

/-- Why a word is illegal (R95); the machine does not tell these apart. -/
inductive Reject where
  /-- "any nonzero reserved bit 31:12" -/
  | reservedBits
  /-- "OPC 0x00, 0x04-0x0F, 0x14-0x1F, 0x27-0xFF" -/
  | unassignedOpcode
  /-- "nonzero RIDX with an OPC other than 0x26" -/
  | strayRidx
deriving DecidableEq, Repr

/-- The name of an illegal word's defect (R95's list, reserved bits first). -/
def rejectReason (c : Word) : Reject :=
  if reservedField c ≠ 0 then .reservedBits
  else if plainOpcodes.contains (opcField c) then .strayRidx
  else .unassignedOpcode

/-- R97: "A decoder reads the whole 32-bit word ..., tests `legal(c)` of rule R94, and if legal selects the row of rule
R93 whose `c & mask == match`". -/
def decode (c : Word) : Except Reject Instr :=
  if legal c then
    match opcodeMap.find? (fun row => row.selectedBy c) with
    | some row => .ok (row.build (ridxField c).toNat)
    | none => .error (rejectReason c)
  else .error (rejectReason c)

/-- R93, R164: the command word of an instruction; ADD_ROUND_KEY is `0x00000026 | (ridx << 8)`. -/
def encode : Instr → Word
  | .expandKey => 0x00000001
  | .encBlock => 0x00000002
  | .decBlock => 0x00000003
  | .ecbEnc => 0x00000010
  | .ecbDec => 0x00000011
  | .cbcEnc => 0x00000012
  | .cbcDec => 0x00000013
  | .subBytes => 0x00000020
  | .invSubBytes => 0x00000021
  | .shiftRows => 0x00000022
  | .invShiftRows => 0x00000023
  | .mixColumns => 0x00000024
  | .invMixColumns => 0x00000025
  | .addRoundKey ridx => 0x00000026 ||| (BitVec.ofNat 32 ridx <<< 8)

/-- The command word whose low `nbits` bits are `w` and whose other bits are 0. A command is one 32-bit word taken
whole from the bus write to CMD (R79, R90), so no byte order comes into it. -/
def tableWord (nbits w : Nat) : Word := BitVec.ofNat 32 (w % 2 ^ nbits)

/-- The instruction this decoder reads from a word numbered as spec/opcode_table.json numbers it. -/
def decodeTableWord (nbits w : Nat) : Option Instr := (decode (tableWord nbits w)).toOption

end Sys2Proof
end

