-- ==== Sys2Proof/Config.lean ====
section
/-! DEFINITION. What an implementation fixes and what the spec leaves unspecified. Every constant here has NO BODY, so
nothing can be proved of its value: a theorem that mentions one holds whatever it is. -/
namespace Sys2Proof

/-- R38: the two byte arrays of AES-CORE. -/
inductive BufferId where
  | inBuf
  | outBuf
deriving DecidableEq, Repr

namespace Config

/-- R8, 93_implementation_defined U1: the OPEN parameter BUF_BYTES, "a multiple of 16 with 16 <= BUF_BYTES <= 65536",
held as BUF_BYTES / 16 - 1, so that every value of the type is an allowed size and every allowed size has a value.
The reset state carries it in `State.bufBlocks`; statements about all states hold for every size (log entry 3). -/
opaque bufBlocks : Fin 4096

/-- R272, U3: the value of a buffer byte that nothing has written since reset, "any value per byte, drawn once at reset
and kept until written": a free value of the number of resets so far, the buffer and the byte offset (log entry 4). -/
opaque bufferByte : Nat → BufferId → Nat → Byte

/-- R278, U4: what a host read of a result location returns while BUSY = 1, "a fresh draw on every read": a free value of
the number of such reads so far (log entry 5). -/
opaque busyRead : Nat → Word

end Config

end Sys2Proof
end

