-- ==== Sys2Proof/Machine/State.lean ====
section
/-! DEFINITION. The state of AES-CORE as plain data (10_state.md R20-R42), the reasons a step could stop (none is ever
used: every access and every command of this machine has an effect the spec gives), and the state after reset (R271). -/
namespace Sys2Proof.Machine

/-- Why a step stops with a fault. No constructor: AES-CORE never stops. An error of a command is a completion code
(60_exceptions.md R240) and a bus error is a response on the port (20_memory.md R66), both next states. -/
inductive Fault where
deriving DecidableEq, Repr

/-- Why a step is refused. -/
inductive Refusal where
  /-- Raised by `exec` for an instruction with no meaning in the model (safe: the machine stops). No arm raises it. -/
  | notModelled (mnemonic : String)
deriving DecidableEq, Repr

/-- One 16-byte block as four column words: `c0` .. `c3` are STATE0 .. STATE3 (R35), IV0 .. IV3 (R34) or columns 0 .. 3
of the State matrix (42_round_engine.md R150: "register STATEc is column c, row 0 in bits 31:24"). -/
structure Block where
  c0 : Word
  c1 : Word
  c2 : Word
  c3 : Word
deriving DecidableEq, Repr

/-- CTRL (R23): KEYLEN in bits 7:0 and IE in bit 8. The reserved bits 31:9 are no state (R22). -/
structure Ctrl where
  keylen : BitVec 8
  ie : Bool
deriving DecidableEq, Repr

/-- STATUS (R26) but for BUSY, which is stored once, as the presence of a pending command (`State.pending`): DONE in bit
1, WERR in bit 2, ERR in bits 7:4. The reserved bits are no state (R22). -/
structure Status where
  done : Bool
  werr : Bool
  err : BitVec 4
deriving DecidableEq, Repr

/-- A buffer's contents: the bytes written since reset, as (byte offset, byte) pairs with strictly rising offsets. An
offset with no entry has not been written; what it reads as is `Machine.bufferByte` (R272, log entry 4). -/
abbrev Memory := List Host.Cell

/-- What the bus slave port answered to the latest host access (92_eei_decisions.md D3: `rdata` and `error`). -/
inductive BusResponse where
  /-- a read: the data word and the error response (R66: an erroneous read returns 0 as data) -/
  | read (rdata : Word) (error : Bool)
  /-- a write and its error response; a write dropped because BUSY = 1 is no error (70_reset_and_hazards.md R277) -/
  | write (error : Bool)
deriving DecidableEq, Repr

/-- One turn of the interleaving of R42: what happens next to the machine. -/
inductive Event where
  /-- the host reads the word at a byte address (20_memory.md R62) -/
  | read (addr : BitVec 18)
  /-- the host writes a word at a byte address (R62) -/
  | write (addr : BitVec 18) (data : Word)
  /-- the engine takes its step if a command is pending (R41) -/
  | engine
  /-- the reset input `rst` is asserted (R270) -/
  | reset
deriving DecidableEq, Repr

/-- The whole state. Its first part is the spec's (R21, R39); the port's answer is the spec's too (R66, D3); the last four
fields are the model's own and INVENTORY.md says so. -/
structure State where
  /-- CTRL (R23) -/
  ctrl : Ctrl
  /-- STATUS.DONE, WERR, ERR (R26) -/
  status : Status
  /-- IN_LEN.LEN, bits 16:0 (R31) -/
  inLen : BitVec 17
  /-- OUT_LEN.LEN, bits 16:0 (R32) -/
  outLen : BitVec 17
  /-- KEY0-KEY7 (R33) -/
  key : Vector Word 8
  /-- IV0-IV3 (R34) -/
  iv : Block
  /-- STATE0-STATE3 (R35) -/
  block : Block
  /-- RK0-RK59 (R36) -/
  rk : Vector Word 60
  /-- IN_BUF (R38) -/
  inBuf : Memory
  /-- OUT_BUF (R38) -/
  outBuf : Memory
  /-- PENDING (R39), the command word latched at issue; BUSY = 1 exactly while there is one (R27, R251, R252) -/
  pending : Option Word
  /-- the port's answer to the latest access since reset (R66, R257); none before the first -/
  response : Option BusResponse
  /-- the machine's BUF_BYTES / 16 - 1 (R8): fixed, no step changes it (log entry 3) -/
  bufBlocks : Fin 4096
  /-- how many resets there were: selects the free contents of unwritten buffer bytes (R272, log entry 4) -/
  resets : Nat
  /-- how many reads returned a free value: selects the next one (R278, log entry 5) -/
  draws : Nat
  /-- the turns to come, the next one first; when none is left only the engine acts (R41, R42, log entry 1) -/
  agenda : List Event
deriving DecidableEq, Repr

/-- The all-zero block. -/
def Block.zero : Block := ⟨0, 0, 0, 0⟩

/-- R271: every register 0, no command pending, the buffers unwritten (R272). -/
def State.reset : State where
  ctrl := ⟨0, false⟩
  status := ⟨false, false, 0⟩
  inLen := 0
  outLen := 0
  key := Vector.replicate 8 0
  iv := Block.zero
  block := Block.zero
  rk := Vector.replicate 60 0
  inBuf := []
  outBuf := []
  pending := none
  response := none
  bufBlocks := Config.bufBlocks
  resets := 0
  draws := 0
  agenda := []

end Sys2Proof.Machine
end

