-- ==== Sys2Proof/Machine/Bytes.lean ====
section
/-! DEFINITION. Byte fields of words and blocks (00_scope.md R10, 20_memory.md R67-R69, 42_round_engine.md R150): big-endian
within a word, column-major within a block. -/
namespace Sys2Proof.Machine

/-- R10: "`byte(w, j)` for j in 0..3 is `w[31-8j : 24-8j]`: byte 0 is the most-significant byte". -/
def byte (w : Word) (j : Nat) : Byte := w.extractLsb' (24 - 8 * j) 8

/-- R10: "`word(b0, b1, b2, b3)` is ... `b0 << 24 | b1 << 16 | b2 << 8 | b3`". -/
def word (b0 b1 b2 b3 : Byte) : Word := b0 ++ b1 ++ b2 ++ b3

/-- The four bytes of a word, byte 0 first. -/
def wordBytes (w : Word) : List Byte := [byte w 0, byte w 1, byte w 2, byte w 3]

/-- Register `i` of a group of four (STATEi, IVi), or column `i` of a matrix. -/
def Block.col (b : Block) (i : Fin 4) : Word :=
  match i with
  | 0 => b.c0
  | 1 => b.c1
  | 2 => b.c2
  | 3 => b.c3

/-- Write register `i` of a group of four. -/
def Block.setCol (b : Block) (i : Fin 4) (w : Word) : Block :=
  match i with
  | 0 => { b with c0 := w }
  | 1 => { b with c1 := w }
  | 2 => { b with c2 := w }
  | 3 => { b with c3 := w }

/-- R150: `s[r][c] = byte(STATE[c], r)`. -/
def Block.entry (s : Block) (r c : Fin 4) : Byte := byte (s.col c) r.val

/-- R150's inverse map: the matrix whose entry at row `r`, column `c` is `f r c`. -/
def Block.ofEntries (f : Fin 4 → Fin 4 → Byte) : Block where
  c0 := word (f 0 0) (f 1 0) (f 2 0) (f 3 0)
  c1 := word (f 0 1) (f 1 1) (f 2 1) (f 3 1)
  c2 := word (f 0 2) (f 1 2) (f 2 2) (f 3 2)
  c3 := word (f 0 3) (f 1 3) (f 2 3) (f 3 3)

/-- The same function applied to each of the four words. -/
def Block.mapCols (f : Word → Word) (b : Block) : Block := ⟨f b.c0, f b.c1, f b.c2, f b.c3⟩

/-- R11: byte-wise XOR of two blocks. -/
def Block.xor (a b : Block) : Block := ⟨a.c0 ^^^ b.c0, a.c1 ^^^ b.c1, a.c2 ^^^ b.c2, a.c3 ^^^ b.c3⟩

/-- R150 `FromState`, R35: the 16 bytes of a block, "block byte `k` is `byte(STATE[k div 4], k mod 4)`". -/
def Block.toBytes (b : Block) : List Byte := wordBytes b.c0 ++ wordBytes b.c1 ++ wordBytes b.c2 ++ wordBytes b.c3

/-- R68, R150 `ToState`: the word made of bytes `i` .. `i+3` of a byte string. -/
def wordAt (x : List Byte) (i : Nat) : Word :=
  word (x.getD i 0) (x.getD (i + 1) 0) (x.getD (i + 2) 0) (x.getD (i + 3) 0)

/-- 44_modes.md section 2: block `j` of a byte string, `x_j = x[16j .. 16j+16)`. -/
def blockAt (x : List Byte) (j : Nat) : Block :=
  ⟨wordAt x (16 * j), wordAt x (16 * j + 4), wordAt x (16 * j + 8), wordAt x (16 * j + 12)⟩

/-- 44_modes.md section 2: `Blocks(x)` of a byte string whose length is a multiple of 16. -/
def blocksOf (x : List Byte) : List Block := (List.range (x.length / 16)).map (blockAt x)

/-- The byte string of a list of blocks, in order. -/
def bytesOf (bs : List Block) : List Byte := bs.flatMap Block.toBytes

end Sys2Proof.Machine
end

