-- ==== Sys2Proof/Machine/Flags.lean ====
section
/-! DEFINITION. The control and status fields: how CTRL, STATUS and the length registers read as words, what a write to
them stores, the completion codes, the STATUS updates of issue and completion, and the interrupt line. There are no
condition codes (10_state.md R37). -/
namespace Sys2Proof.Machine

/-- The completion codes a command can report (60_exceptions.md R241). -/
inductive ErrCode where
  /-- completed without error -/
  | none
  /-- illegal command word (R242) -/
  | illegalCmd
  /-- CTRL.KEYLEN not in {16, 24, 32} (R244) -/
  | invalidKeyLength
  /-- IN_LEN not a multiple of 16 (R245) -/
  | invalidBlockAlignment
  /-- decrypted stream not correctly padded (R247) -/
  | invalidPadding
  /-- input or output does not fit BUF_BYTES (R246) -/
  | length
  /-- RIDX > Nr (R243) -/
  | roundRange
deriving DecidableEq, Repr

/-- R30, R241: the value STATUS.ERR takes for each code. -/
def errBits : ErrCode → BitVec 4
  | .none => 0
  | .illegalCmd => 1
  | .invalidKeyLength => 2
  | .invalidBlockAlignment => 3
  | .invalidPadding => 4
  | .length => 5
  | .roundRange => 6

/-- R27: STATUS.BUSY is 1 from issue to completion, which is while a command is pending. -/
def busy (s : State) : Bool := s.pending.isSome

/-- R23, R22: CTRL as a word, reserved bits 0. -/
def ctrlWord (c : Ctrl) : Word := (BitVec.ofBool c.ie ++ c.keylen).setWidth 32

/-- R23: "A write stores KEYLEN and IE exactly as written"; reserved bits are ignored (R22). -/
def ctrlOfWord (d : Word) : Ctrl := ⟨d.extractLsb' 0 8, d.getLsbD 8⟩

/-- R26, R22: STATUS as a word: ERR in 7:4, bit 3 reserved, WERR in 2, DONE in 1, BUSY in 0. -/
def statusWord (s : State) : Word :=
  (s.status.err ++ (0 : BitVec 1) ++ BitVec.ofBool s.status.werr ++ BitVec.ofBool s.status.done ++
    BitVec.ofBool (busy s)).setWidth 32

/-- R31, R32, R22: a length register as a word, reserved bits 31:17 zero. -/
def lenWord (n : BitVec 17) : Word := n.setWidth 32

/-- R31: a write to IN_LEN stores bits 16:0 "as written". -/
def lenOfWord (d : Word) : BitVec 17 := d.extractLsb' 0 17

/-- R26: a host write to STATUS "clears DONE if bit 1 of the written value is 1 and clears WERR if bit 2 is 1; a 0 bit
leaves the field unchanged; bits 0 and 7:4 of the written value are ignored". -/
def statusClear (d : Word) (t : Status) : Status :=
  { t with done := t.done && !d.getLsbD 1, werr := t.werr && !d.getLsbD 2 }

/-- R251: issue clears DONE and ERR; "STATUS.WERR is unchanged". -/
def statusIssued (t : Status) : Status := { t with done := false, err := 0 }

/-- R252: completion sets DONE and writes the code to ERR. -/
def statusCompleted (code : ErrCode) (t : Status) : Status := { t with done := true, err := errBits code }

/-- R29, R277: a write dropped because BUSY = 1 sets WERR. -/
def statusDropped (t : Status) : Status := { t with werr := true }

/-- R259: "`irq = CTRL.IE and STATUS.DONE` at all times". -/
def irq (s : State) : Bool := s.ctrl.ie && s.status.done

end Sys2Proof.Machine
end

