-- ==== Sys2Proof/Machine/Ops.lean ====
section
/-! DEFINITION. The shared operations: the buffers, the register files the engine writes, and the completion protocol.
`issueCommand` is AES-CORE's trap entry (60_exceptions.md R251), `complete` and `raise` end a command (R252, R253), and
`statusWrite` is the host's acknowledgement, the analogue of a return (R255). -/
namespace Sys2Proof.Machine

/-! ## A buffer as a sorted list of written bytes -/

/-- The canonical form: strictly rising offsets. An unwritten offset has no entry at all, so no entry can repeat what an
unlisted one reads as. -/
abbrev Memory.wf (m : Memory) : Prop := m.Pairwise (fun p q => p.1 < q.1)

/-- The byte written at an offset, if one was written since reset. -/
def memGet : Memory → Nat → Option Byte
  | [], _ => none
  | (k, v) :: rest, a => if a = k then some v else memGet rest a

/-- Write one byte, keeping the offsets strictly rising. -/
def memPut (a : Nat) (v : Byte) : Memory → Memory
  | [] => [(a, v)]
  | (k, x) :: rest =>
    if a < k then (a, v) :: (k, x) :: rest
    else if a = k then (a, v) :: rest
    else (k, x) :: memPut a v rest

/-- Write a byte string at offsets `a`, `a+1`, … -/
def memPutAll (a : Nat) : List Byte → Memory → Memory
  | [], m => m
  | v :: vs, m => memPutAll (a + 1) vs (memPut a v m)

/-- R272: a byte that nothing has written since reset reads as a free value of the reset count, the buffer and the
offset, the same at every read until it is written (log entry 4). -/
def bufferByte (s : State) (id : BufferId) (a : Nat) : Byte :=
  match id with
  | .inBuf => (memGet s.inBuf a).getD (Config.bufferByte s.resets .inBuf a)
  | .outBuf => (memGet s.outBuf a).getD (Config.bufferByte s.resets .outBuf a)

/-- R8, R38: BUF_BYTES. -/
def bufBytes (s : State) : Nat := 16 * (s.bufBlocks.val + 1)

/-- R72: `MemRead(addr, n)`, "the byte string `IN_BUF[addr] ++ ... ++ IN_BUF[addr+n-1]`". -/
def memRead (s : State) (addr n : Nat) : List Byte := (List.range n).map (fun k => bufferByte s .inBuf (addr + k))

/-- R73: `MemWrite(addr, n, v)` "sets `OUT_BUF[addr + k] <- v[k]` for k = 0 .. n-1". -/
def memWrite (addr : Nat) (v : List Byte) (s : State) : State := { s with outBuf := memPutAll addr v s.outBuf }

/-! ## The registers the engine writes -/

/-- 42_round_engine.md `Store`, 43_block_cipher.md `StoreBlock`: write STATE0-STATE3. -/
def storeBlock (b : Block) (s : State) : State := { s with block := b }

/-- Write all of RK0-RK59 (41_key_schedule.md R135). -/
def writeRk (rk : Vector Word 60) (s : State) : State := { s with rk := rk }

/-- Write OUT_LEN.LEN (44_modes.md R208). -/
def setOutLen (n : Nat) (s : State) : State := { s with outLen := BitVec.ofNat 17 n }

/-! ## Issue, completion and error -/

/-- R251: "`PENDING <- c; STATUS.BUSY <- 1; STATUS.DONE <- 0; STATUS.ERR <- 0`. STATUS.WERR is unchanged." -/
def issueCommand (c : Word) (s : State) : State := { s with pending := some c, status := statusIssued s.status }

/-- R252: "`STATUS.BUSY <- 0; STATUS.DONE <- 1; STATUS.ERR <- code`". -/
def complete (code : ErrCode) (s : State) : State :=
  { s with pending := none, status := statusCompleted code s.status }

/-- R252, R253: end the command with an error. `isMode` says whether the command is a mode command, whose error also does
`OUT_LEN.LEN <- 0`; nothing else changes. -/
def raise (isMode : Bool) (code : ErrCode) (s : State) : State :=
  complete code (if isMode then setOutLen 0 s else s)

/-- R26, R255: a host write to STATUS, accepted whether or not BUSY is 1. -/
def statusWrite (d : Word) (s : State) : State := { s with status := statusClear d s.status }

/-- R29, R277: a host write dropped because BUSY = 1 "changes nothing, and it sets STATUS.WERR <- 1". -/
def dropWrite (s : State) : State := { s with status := statusDropped s.status }

/-- R66: what the slave port answers to the current access. -/
def respond (r : BusResponse) (s : State) : State := { s with response := some r }

/-- R270-R273: reset writes every register with its reset value, abandons a pending command and leaves both buffers
unspecified. The size of the buffers is the machine's own, and the turns to come are the environment's. -/
def resetState (s : State) : State :=
  { State.reset with bufBlocks := s.bufBlocks, resets := s.resets + 1, draws := s.draws, agenda := s.agenda }

end Sys2Proof.Machine
end

