-- ==== Sys2Proof/Machine/Operands.lean ====
section
/-! DEFINITION. The implicit operands of the commands (30_encoding.md R92: "All other operands of every command are
implicit"): the variant CTRL.KEYLEN selects, the stream length, and the host-visible locations. -/
namespace Sys2Proof.Machine

/-! ## The key-size variant (00_scope.md R3, 41_key_schedule.md R130) -/

/-- R3: the three variants. -/
inductive Variant where
  | aes128
  | aes192
  | aes256
deriving DecidableEq, Repr

/-- R3: Nk, the key words. -/
def nkOf : Variant → Nat
  | .aes128 => 4
  | .aes192 => 6
  | .aes256 => 8

/-- R3: Nr, the rounds. -/
def nrOf : Variant → Nat
  | .aes128 => 10
  | .aes192 => 12
  | .aes256 => 14

/-- R3: the schedule words Nb*(Nr+1), with Nb = 4. -/
def scheduleWords (v : Variant) : Nat := 4 * (nrOf v + 1)

/-- R130: `variant(KEYLEN)`; none raises ERR_INVALID_KEY_LENGTH. -/
def variantOf (keylen : BitVec 8) : Option Variant :=
  if keylen = 16 then some .aes128
  else if keylen = 24 then some .aes192
  else if keylen = 32 then some .aes256
  else none

/-- R24: the variant a command selects from CTRL.KEYLEN "at command time". -/
def selectedVariant (s : State) : Option Variant := variantOf s.ctrl.keylen

/-! ## Stream operands (44_modes.md section 2) -/

/-- 44_modes.md: `L = R[IN_LEN].LEN`. -/
def streamLen (s : State) : Nat := s.inLen.toNat

/-- 44_modes.md: the input stream IN_BUF[0 .. L). -/
def streamBytes (s : State) : List Byte := memRead s 0 (streamLen s)

/-! ## Host-visible locations (20_memory.md R61) -/

/-- Where an aligned host access lands. -/
inductive Location where
  | ctrl
  | cmd
  | status
  | inLen
  | outLen
  | key (i : Fin 8)
  | iv (i : Fin 4)
  | state (i : Fin 4)
  | rk (i : Fin 60)
  /-- the word of IN_BUF that holds bytes `n` .. `n+3` (R68) -/
  | inBuf (n : Nat)
  /-- the word of OUT_BUF that holds bytes `n` .. `n+3` (R68) -/
  | outBuf (n : Nat)
deriving DecidableEq, Repr

/-- One mapped range of R61: its first byte address, its length in bytes, and what its byte at offset `k` belongs to. -/
structure Region where
  base : Nat
  length : Nat
  place : Nat → Location

/-- R61, 10_state.md section 2: the mapped ranges, for buffers of `size` bytes; every other address is unmapped (R64). -/
def addressMap (size : Nat) : List Region :=
  [⟨0x00000, 0x4, fun _ => .ctrl⟩, ⟨0x00004, 0x4, fun _ => .cmd⟩, ⟨0x00008, 0x4, fun _ => .status⟩,
   ⟨0x0000C, 0x4, fun _ => .inLen⟩, ⟨0x00010, 0x4, fun _ => .outLen⟩,
   ⟨0x00020, 0x20, fun k => .key (Fin.ofNat 8 (k / 4))⟩, ⟨0x00040, 0x10, fun k => .iv (Fin.ofNat 4 (k / 4))⟩,
   ⟨0x00050, 0x10, fun k => .state (Fin.ofNat 4 (k / 4))⟩, ⟨0x00100, 0xF0, fun k => .rk (Fin.ofNat 60 (k / 4))⟩,
   ⟨0x10000, size, fun k => .inBuf k⟩, ⟨0x20000, size, fun k => .outBuf k⟩]

/-- The address `n` lies in the range. -/
def inRegion (n : Nat) (r : Region) : Bool := decide (r.base ≤ n) && decide (n < r.base + r.length)

/-- R61, R64: where a word-aligned access at byte address `n` lands; none is an unmapped address. -/
def locate (size n : Nat) : Option Location :=
  ((addressMap size).find? (inRegion n)).map (fun r => r.place (n - r.base))

/-- R61, 10_state.md section 2: the byte address of a location. -/
def addressOf : Location → Nat
  | .ctrl => 0x00
  | .cmd => 0x04
  | .status => 0x08
  | .inLen => 0x0C
  | .outLen => 0x10
  | .key i => 0x20 + 4 * i.val
  | .iv i => 0x40 + 4 * i.val
  | .state i => 0x50 + 4 * i.val
  | .rk i => 0x100 + 4 * i.val
  | .inBuf n => 0x10000 + n
  | .outBuf n => 0x20000 + n

/-- R65: the read-only locations are OUT_LEN, RK0-RK59 and every OUT_BUF word. -/
def isWritable : Location → Bool
  | .ctrl => true
  | .cmd => true
  | .status => true
  | .inLen => true
  | .outLen => false
  | .key _ => true
  | .iv _ => true
  | .state _ => true
  | .rk _ => false
  | .inBuf _ => true
  | .outBuf _ => false

/-- R278: the locations "the pending command may write (STATE0-STATE3, RK0-RK59, OUT_LEN, or any OUT_BUF word)". -/
def isResult : Location → Bool
  | .ctrl => false
  | .cmd => false
  | .status => false
  | .inLen => false
  | .outLen => true
  | .key _ => false
  | .iv _ => false
  | .state _ => true
  | .rk _ => true
  | .inBuf _ => false
  | .outBuf _ => true

end Sys2Proof.Machine
end

