-- ==== Sys2Proof/Machine/Bus.lean ====
section
/-! DEFINITION. The bus slave port (20_memory.md R60-R74): one host access at a time, checked for alignment, mapping and
direction in that order (R66), then subject to the busy rules (70_reset_and_hazards.md R277, R278). -/
namespace Sys2Proof.Machine

/-- R63: "A host access whose address has addr[1:0] != 0 is misaligned". -/
def misaligned (a : BitVec 18) : Bool := a.extractLsb' 0 2 != 0

/-- R68: the word of a buffer that holds bytes `n` .. `n+3`. -/
def bufferWord (s : State) (id : BufferId) (n : Nat) : Word :=
  word (bufferByte s id n) (bufferByte s id (n + 1)) (bufferByte s id (n + 2)) (bufferByte s id (n + 3))

/-- The defined value of a location: registers by their layout (R22-R36, R67), buffer words by R68; CMD reads 0 (R25). -/
def readValue (s : State) : Location → Word
  | .ctrl => ctrlWord s.ctrl
  | .cmd => 0
  | .status => statusWord s
  | .inLen => lenWord s.inLen
  | .outLen => lenWord s.outLen
  | .key i => s.key[i]
  | .iv i => s.iv.col i
  | .state i => s.block.col i
  | .rk i => s.rk[i]
  | .inBuf n => bufferWord s .inBuf n
  | .outBuf n => bufferWord s .outBuf n

/-- R278, U4: the free value a read of a result location returns while BUSY = 1. OUT_LEN's reserved bits read as 0 even
then (R22, U7; log entry 6). -/
def busyValue (s : State) : Location → Word
  | .outLen => lenWord (lenOfWord (Config.busyRead s.draws))
  | _ => Config.busyRead s.draws

/-- A host read (R62-R66, R278). A read has no effect on the machine but the port's answer (R74); `draws` only picks the
next free value. -/
def hostRead (a : BitVec 18) (s : State) : State :=
  if misaligned a then respond (.read 0 true) s
  else
    match locate (bufBytes s) a.toNat with
    | none => respond (.read 0 true) s
    | some loc =>
      if busy s && isResult loc then respond (.read (busyValue s loc) false) { s with draws := s.draws + 1 }
      else respond (.read (readValue s loc) false) s

/-- What an accepted write does at a writable location: the registers store their fields (R22, R23, R31, R33-R35), CMD
issues (R25, R251), STATUS clears (R26), IN_BUF stores four bytes (R68). The read-only locations store nothing. -/
def writeLocation (d : Word) (s : State) : Location → State
  | .ctrl => { s with ctrl := ctrlOfWord d }
  | .cmd => issueCommand d s
  | .status => statusWrite d s
  | .inLen => { s with inLen := lenOfWord d }
  | .outLen => s
  | .key i => { s with key := s.key.set i.val d i.isLt }
  | .iv i => { s with iv := s.iv.setCol i d }
  | .state i => { s with block := s.block.setCol i d }
  | .rk _ => s
  | .inBuf n => { s with inBuf := memPutAll n (wordBytes d) s.inBuf }
  | .outBuf _ => s

/-- A host write (R62-R66, R277). -/
def hostWrite (a : BitVec 18) (d : Word) (s : State) : State :=
  if misaligned a then respond (.write true) s
  else
    match locate (bufBytes s) a.toNat with
    | none => respond (.write true) s
    | some loc =>
      if !isWritable loc then respond (.write true) s
      else if busy s && loc != .status then respond (.write false) (dropWrite s)
      else respond (.write false) (writeLocation d s loc)

end Sys2Proof.Machine
end

