-- ==== Sys2Proof/Machine/KeySchedule.lean ====
section
/-! DEFINITION. The key-schedule expander and EXPAND_KEY (41_key_schedule.md R130-R137). -/
namespace Sys2Proof.Machine

/-- R132: the word `temp` that is XORed into `w[i]`, from the words already computed. -/
def expandTemp (nk : Nat) (w : List Word) (i : Nat) : Word :=
  if i % nk = 0 then subWord (rotWord (w.getD (i - 1) 0)) ^^^ rconWord (i / nk - 1)
  else if nk = 8 ∧ i % nk = 4 then subWord (w.getD (i - 1) 0)
  else w.getD (i - 1) 0

/-- R132: `w[i] <- w[i-Nk] xor temp`, appended to the words `w[0 .. i-1]`. -/
def expandNext (nk : Nat) (w : List Word) (i : Nat) : List Word := w ++ [w.getD (i - nk) 0 ^^^ expandTemp nk w i]

/-- R132: KeyExpansion. The first Nk words are KEY[0 .. Nk-1] (R131); i runs from Nk to 4*(Nr+1)-1. -/
def keyExpansion (key : Vector Word 8) (v : Variant) : List Word :=
  (List.range' (nkOf v) (scheduleWords v - nkOf v)).foldl (expandNext (nkOf v)) (key.toList.take (nkOf v))

/-- R134: round key `r` as a matrix: `RoundKey(w, r)[j][c] = byte(w[4r+c], j)`, that is column `c` is `w[4r+c]`. -/
def roundKey (w : List Word) (r : Nat) : Block :=
  ⟨w.getD (4 * r) 0, w.getD (4 * r + 1) 0, w.getD (4 * r + 2) 0, w.getD (4 * r + 3) 0⟩

/-- R135: what an expansion leaves in RK0-RK59: `w[i]` for i < 4(Nr+1), and 0 for the rest. -/
@[irreducible] def rkFile (w : List Word) (v : Variant) : Vector Word 60 :=
  Vector.ofFn (fun i => if i.val < scheduleWords v then w.getD i.val 0 else 0)

/-- R135, R136: the key expansion of a key-using command: RK0-RK59 written from KEY and the variant. -/
def expandInto (v : Variant) (s : State) : State := writeRk (rkFile (keyExpansion s.key v) v) s

/-- R137: EXPAND_KEY. -/
def execExpandKey (s : State) : Host.Outcome State Fault Refusal :=
  match selectedVariant s with
  | none => .next (raise false .invalidKeyLength s)
  | some v => .next (complete .none (expandInto v s))

end Sys2Proof.Machine
end

