-- ==== Sys2Proof/Machine/RoundEngine.lean ====
section
/-! DEFINITION. The round engine: the primitives on the State matrix (42_round_engine.md R150-R157) and the seven commands
that apply one of them to STATE0-STATE3 (R158-R164). -/
namespace Sys2Proof.Machine

/-! ## The primitives as functions -/

/-- R151: `SubBytes(s)[r][c] = SBox[s[r][c]]`. -/
def subBytes (s : Block) : Block := Block.ofEntries (fun r c => sbox (s.entry r c))

/-- R152: `InvSubBytes(s)[r][c] = InvSBox[s[r][c]]`. -/
def invSubBytes (s : Block) : Block := Block.ofEntries (fun r c => invSbox (s.entry r c))

/-- R153: `ShiftRows(s)[r][c] = s[r][(c + r) mod 4]`. -/
def shiftRows (s : Block) : Block := Block.ofEntries (fun r c => s.entry r (c + r))

/-- R154: `InvShiftRows(s)[r][c] = s[r][(c - r) mod 4]`. -/
def invShiftRows (s : Block) : Block := Block.ofEntries (fun r c => s.entry r (c - r))

/-- R155: row `r` of the matrix [[2,3,1,1],[1,2,3,1],[1,1,2,3],[3,1,1,2]] times a column. -/
def mixRow (r : Fin 4) (a0 a1 a2 a3 : Byte) : Byte :=
  match r with
  | 0 => gmul 0x02 a0 ^^^ gmul 0x03 a1 ^^^ a2 ^^^ a3
  | 1 => a0 ^^^ gmul 0x02 a1 ^^^ gmul 0x03 a2 ^^^ a3
  | 2 => a0 ^^^ a1 ^^^ gmul 0x02 a2 ^^^ gmul 0x03 a3
  | 3 => gmul 0x03 a0 ^^^ a1 ^^^ a2 ^^^ gmul 0x02 a3

/-- R156: row `r` of the matrix [[0E,0B,0D,09],[09,0E,0B,0D],[0D,09,0E,0B],[0B,0D,09,0E]] times a column. -/
def invMixRow (r : Fin 4) (a0 a1 a2 a3 : Byte) : Byte :=
  match r with
  | 0 => gmul 0x0E a0 ^^^ gmul 0x0B a1 ^^^ gmul 0x0D a2 ^^^ gmul 0x09 a3
  | 1 => gmul 0x09 a0 ^^^ gmul 0x0E a1 ^^^ gmul 0x0B a2 ^^^ gmul 0x0D a3
  | 2 => gmul 0x0D a0 ^^^ gmul 0x09 a1 ^^^ gmul 0x0E a2 ^^^ gmul 0x0B a3
  | 3 => gmul 0x0B a0 ^^^ gmul 0x0D a1 ^^^ gmul 0x09 a2 ^^^ gmul 0x0E a3

/-- R155: MixColumns, column by column. -/
def mixColumns (s : Block) : Block :=
  Block.ofEntries (fun r c => mixRow r (s.entry 0 c) (s.entry 1 c) (s.entry 2 c) (s.entry 3 c))

/-- R156: InvMixColumns, column by column. -/
def invMixColumns (s : Block) : Block :=
  Block.ofEntries (fun r c => invMixRow r (s.entry 0 c) (s.entry 1 c) (s.entry 2 c) (s.entry 3 c))

/-- R157: AddRoundKey, on the registers `STATE[c] <- STATE[c] xor w[4r+c]`. -/
def addRoundKey (s : Block) (w : List Word) (r : Nat) : Block := s.xor (roundKey w r)

/-! ## The primitive commands (section 2) -/

/-- The common form of R158-R163: apply a primitive to STATE0-STATE3 and complete; KEYLEN is not read. -/
def runPrimitive (f : Block → Block) (s : State) : Host.Outcome State Fault Refusal :=
  .next (complete .none (storeBlock (f s.block) s))

/-- R158: SUB_BYTES. -/
def execSubBytes (s : State) : Host.Outcome State Fault Refusal := runPrimitive subBytes s

/-- R159: INV_SUB_BYTES. -/
def execInvSubBytes (s : State) : Host.Outcome State Fault Refusal := runPrimitive invSubBytes s

/-- R160: SHIFT_ROWS. -/
def execShiftRows (s : State) : Host.Outcome State Fault Refusal := runPrimitive shiftRows s

/-- R161: INV_SHIFT_ROWS. -/
def execInvShiftRows (s : State) : Host.Outcome State Fault Refusal := runPrimitive invShiftRows s

/-- R162: MIX_COLUMNS. -/
def execMixColumns (s : State) : Host.Outcome State Fault Refusal := runPrimitive mixColumns s

/-- R163: INV_MIX_COLUMNS. -/
def execInvMixColumns (s : State) : Host.Outcome State Fault Refusal := runPrimitive invMixColumns s

/-- R164: ADD_ROUND_KEY, the key length checked before the round range (R249). -/
def execAddRoundKey (ridx : Nat) (s : State) : Host.Outcome State Fault Refusal :=
  match selectedVariant s with
  | none => .next (raise false .invalidKeyLength s)
  | some v =>
    if nrOf v < ridx then .next (raise false .roundRange s)
    else .next (complete .none (storeBlock (addRoundKey s.block (keyExpansion s.key v) ridx) (expandInto v s)))

end Sys2Proof.Machine
end

