-- ==== Sys2Proof/Machine/BlockCipher.lean ====
section
/-! DEFINITION. The block cipher (43_block_cipher.md): the two round sequences as functions (R180, R181) and the commands
ENC_BLOCK and DEC_BLOCK (R183, R184). -/
namespace Sys2Proof.Machine

/-- R180: one middle round of the encrypt sequence. -/
def encRound (w : List Word) (s : Block) (round : Nat) : Block :=
  addRoundKey (mixColumns (shiftRows (subBytes s))) w round

/-- R180: the final round, with no MixColumns. -/
def encFinal (w : List Word) (nr : Nat) (s : Block) : Block := addRoundKey (shiftRows (subBytes s)) w nr

/-- R180: Cipher: AddRoundKey(0), rounds 1 .. Nr-1, the final round Nr. -/
def cipher (w : List Word) (nr : Nat) (b : Block) : Block :=
  encFinal w nr ((List.range' 1 (nr - 1)).foldl (encRound w) (addRoundKey b w 0))

/-- R181: one middle round of the decrypt sequence; InvMixColumns comes after AddRoundKey. -/
def decRound (w : List Word) (s : Block) (round : Nat) : Block :=
  invMixColumns (addRoundKey (invSubBytes (invShiftRows s)) w round)

/-- R181: the final step of the decrypt sequence. -/
def decFinal (w : List Word) (s : Block) : Block := addRoundKey (invSubBytes (invShiftRows s)) w 0

/-- R181: InvCipher: AddRoundKey(Nr), rounds Nr-1 down to 1, the final step with round key 0. -/
def invCipher (w : List Word) (nr : Nat) (b : Block) : Block :=
  decFinal w ((List.range' 1 (nr - 1)).reverse.foldl (decRound w) (addRoundKey b w nr))

/-- R183: ENC_BLOCK. -/
def execEncBlock (s : State) : Host.Outcome State Fault Refusal :=
  match selectedVariant s with
  | none => .next (raise false .invalidKeyLength s)
  | some v =>
    .next (complete .none (storeBlock (cipher (keyExpansion s.key v) (nrOf v) s.block) (expandInto v s)))

/-- R184: DEC_BLOCK. -/
def execDecBlock (s : State) : Host.Outcome State Fault Refusal :=
  match selectedVariant s with
  | none => .next (raise false .invalidKeyLength s)
  | some v =>
    .next (complete .none (storeBlock (invCipher (keyExpansion s.key v) (nrOf v) s.block) (expandInto v s)))

end Sys2Proof.Machine
end

