-- ==== Sys2Proof/Machine/Modes.lean ====
section
/-! DEFINITION. Padding and the mode controller (44_modes.md): ECB and CBC over the stream in IN_BUF. -/
namespace Sys2Proof.Machine

/-! ## Padding (R200-R202) -/

/-- R200: `padLen = 16` if `L mod 16 == 0`, else `16 - L mod 16`. -/
def padLen (len : Nat) : Nat := if len % 16 = 0 then 16 else 16 - len % 16

/-- R200: `Pad(m) = m ++ [padLen] * padLen`. -/
def pad (m : List Byte) : List Byte := m ++ List.replicate (padLen m.length) (BitVec.ofNat 8 (padLen m.length))

/-- R200: the padded length `16*(L div 16 + 1)`. -/
def paddedLen (len : Nat) : Nat := 16 * (len / 16 + 1)

/-- The value of the last byte of a stream, `q[L-1]`. -/
def lastByte (q : List Byte) : Nat := (q.getD (q.length - 1) 0).toNat

/-- R201: `padOK(q)`, the union of the rejections of the source's §4.5 and §7 (90_conflicts.md C2). -/
def padOk (q : List Byte) : Bool :=
  decide (0 < q.length) && decide (q.length % 16 = 0) && decide (1 ≤ lastByte q) && decide (lastByte q ≤ 16) &&
    decide (lastByte q ≤ q.length) &&
    q.drop (q.length - lastByte q) == List.replicate (lastByte q) (BitVec.ofNat 8 (lastByte q))

/-- R202: `Unpad(q) = q[0 .. L - q[L-1])`. -/
def unpad (q : List Byte) : List Byte := q.take (q.length - lastByte q)

/-! ## Block chaining (R203-R207, R210) -/

/-- R205: CBC encryption with running IV `iv`: each block is XORed with it, encrypted by `f`, and the ciphertext block
becomes the running IV. -/
def cbcEncrypt (f : Block → Block) : Block → List Block → List Block
  | _, [] => []
  | iv, p :: ps => f (p.xor iv) :: cbcEncrypt f (f (p.xor iv)) ps

/-- R206: CBC decryption with running IV `iv`: each block is decrypted by `f` and XORed with it, and "the ciphertext block
just consumed (not the decrypted output)" becomes the running IV. -/
def cbcDecrypt (f : Block → Block) : Block → List Block → List Block
  | _, [] => []
  | iv, c :: cs => (f c).xor iv :: cbcDecrypt f c cs

/-! ## The common parts of the mode commands -/

/-- R203, R205, R249: the checks of an encrypt command, made before any transform work. -/
def encryptCheck (s : State) : Except ErrCode Variant :=
  match selectedVariant s with
  | none => .error .invalidKeyLength
  | some v =>
    if bufBytes s < streamLen s then .error .length
    else if bufBytes s < paddedLen (streamLen s) then .error .length
    else .ok v

/-- R204, R206, R249: the checks of a decrypt command, made before any transform work. -/
def decryptCheck (s : State) : Except ErrCode Variant :=
  match selectedVariant s with
  | none => .error .invalidKeyLength
  | some v =>
    if bufBytes s < streamLen s then .error .length
    else if streamLen s % 16 ≠ 0 then .error .invalidBlockAlignment
    else .ok v

/-- R203, R205, R208: write the ciphertext `c` to OUT_BUF[0 .. n), set OUT_LEN = n and complete. -/
def finishEncrypt (c : List Byte) (s : State) : State :=
  complete .none (setOutLen (paddedLen (streamLen s)) (memWrite 0 c s))

/-- R209: PaddingFailure(L): zero OUT_BUF[0 .. L) and raise ERR_INVALID_PADDING, which sets OUT_LEN to 0. -/
def paddingFailure (s : State) : State :=
  raise true .invalidPadding (memWrite 0 (List.replicate (streamLen s) 0x00) s)

/-- R204, R206, R208: the decrypted stream `q`: if `padOK(q)`, write all of it to OUT_BUF[0 .. L), set
OUT_LEN = L - q[L-1] and complete; otherwise PaddingFailure(L). -/
def finishDecrypt (q : List Byte) (s : State) : State :=
  if padOk q then complete .none (setOutLen (streamLen s - lastByte q) (memWrite 0 q s))
  else paddingFailure s

/-- R203, R205: the ciphertext of the padded stream; `mode` maps plaintext blocks to ciphertext blocks. -/
def encryptBytes (mode : List Block → List Block) (s : State) : List Byte := bytesOf (mode (blocksOf (pad (streamBytes s))))

/-- R204, R206: the decrypted stream `q`; `mode` maps ciphertext blocks to plaintext blocks. -/
def decryptBytes (mode : List Block → List Block) (s : State) : List Byte := bytesOf (mode (blocksOf (streamBytes s)))

/-! ## The mode commands -/

/-- R203: the ciphertext blocks of ECB_ENC. -/
def ecbEncBlocks (v : Variant) (s : State) : List Block → List Block :=
  List.map (cipher (keyExpansion s.key v) (nrOf v))

/-- R204: the plaintext blocks of ECB_DEC. -/
def ecbDecBlocks (v : Variant) (s : State) : List Block → List Block :=
  List.map (invCipher (keyExpansion s.key v) (nrOf v))

/-- R205: the ciphertext blocks of CBC_ENC, from `iv0`, the IV registers. -/
def cbcEncBlocks (v : Variant) (s : State) : List Block → List Block :=
  cbcEncrypt (cipher (keyExpansion s.key v) (nrOf v)) s.iv

/-- R206: the plaintext blocks of CBC_DEC, from `iv0`, the IV registers. -/
def cbcDecBlocks (v : Variant) (s : State) : List Block → List Block :=
  cbcDecrypt (invCipher (keyExpansion s.key v) (nrOf v)) s.iv

/-- R203: ECB_ENC. -/
def execEcbEnc (s : State) : Host.Outcome State Fault Refusal :=
  match encryptCheck s with
  | .error code => .next (raise true code s)
  | .ok v => .next (finishEncrypt (encryptBytes (ecbEncBlocks v s) s) (expandInto v s))

/-- R204: ECB_DEC. -/
def execEcbDec (s : State) : Host.Outcome State Fault Refusal :=
  match decryptCheck s with
  | .error code => .next (raise true code s)
  | .ok v => .next (finishDecrypt (decryptBytes (ecbDecBlocks v s) s) (expandInto v s))

/-- R205: CBC_ENC. IV0-IV3 are not changed (R207). -/
def execCbcEnc (s : State) : Host.Outcome State Fault Refusal :=
  match encryptCheck s with
  | .error code => .next (raise true code s)
  | .ok v => .next (finishEncrypt (encryptBytes (cbcEncBlocks v s) s) (expandInto v s))

/-- R206: CBC_DEC. IV0-IV3 are not changed (R207). -/
def execCbcDec (s : State) : Host.Outcome State Fault Refusal :=
  match decryptCheck s with
  | .error code => .next (raise true code s)
  | .ok v => .next (finishDecrypt (decryptBytes (cbcDecBlocks v s) s) (expandInto v s))

end Sys2Proof.Machine
end

