-- ==== Sys2Proof/Machine/Engine.lean ====
section
/-! DEFINITION. The turns of the two agents and of reset (10_state.md R41, R42, 70_reset_and_hazards.md R270). -/
namespace Sys2Proof.Machine

/-- R41: the engine step. With a command pending it performs the whole command: a legal word by its rule, an illegal one by
completing with ERR_ILLEGAL_CMD (R95, R242). "When BUSY = 0 the engine has no step." -/
def engineTurn (s : State) : Host.Outcome State Fault Refusal :=
  match s.pending with
  | none => .next s
  | some c =>
    match decode c with
    | .ok i => exec i s
    | .error _ => .next (raise false .illegalCmd s)

/-- R42: one turn: a host access, the engine step, or reset. -/
def takeTurn (e : Event) (s : State) : Host.Outcome State Fault Refusal :=
  match e with
  | .read a => .next (hostRead a s)
  | .write a d => .next (hostWrite a d s)
  | .engine => engineTurn s
  | .reset => .next (resetState s)

/-- The machine with the command word `c` issued and no other turn before the engine's (R251). -/
def issued (c : Word) (s : State) : State := issueCommand c { s with agenda := [] }

end Sys2Proof.Machine
end

