-- ==== Sys2Proof/Machine/Step.lean ====
section
/-! DEFINITION. One step of the machine: the next turn of the agenda, or, when none is left, the engine's (10_state.md R41,
R42; log entry 1). -/
namespace Sys2Proof.Machine

/-- One turn. With an empty agenda a pending command is executed (70_reset_and_hazards.md R282: it completes), and an
idle machine waits (R271: "it is idle (BUSY = 0) and waits for a command"). -/
def step (s : State) : Host.Outcome State Fault Refusal :=
  match s.agenda with
  | [] => engineTurn s
  | e :: rest => takeTurn e { s with agenda := rest }

/-- The machine at the point where the very next step runs the command word `w`: the word is issued, as a host write to CMD
issues it (R251), and no other turn comes first. -/
def State.withFetchWord (s : State) (nbits w : Nat) : State := issued (tableWord nbits w) s

end Sys2Proof.Machine
end

