-- ==== Sys2Proof/Machine/Sequencer.lean ====
section
/-! DEFINITION. The round sequencer of one block operation, phase by phase (43_block_cipher.md R182, informative): the hidden
round counter and schedule of 10_state.md R39. No step of the machine uses it: a command is one atomic engine step
(R41), and these phases exist only inside it. Statements say that running it gives Cipher and InvCipher. -/
namespace Sys2Proof.Machine

/-- R182: "depends only on the direction and Nr". -/
inductive Direction where
  | encrypt
  | decrypt
deriving DecidableEq, Repr

/-- R182's phases. -/
inductive Phase where
  | kexp
  | init
  | round
  | final
  /-- R182's END: "result available" -/
  | finished
deriving DecidableEq, Repr

/-- The sequencer's state: direction, variant and key are fixed during the operation; `rc` is the round counter and
`words` the schedule of R39. -/
structure Sequencer where
  dir : Direction
  variant : Variant
  key : Vector Word 8
  phase : Phase
  words : List Word
  rc : Nat
  block : Block
deriving DecidableEq, Repr

/-- The sequencer at the start of an operation on block `b`, before KEXP. DESIGN CHOICE (log entry 21): R182 gives the round
counter no value before INIT and the schedule none before KEXP; here they start as 0 and empty, and no phase reads them. -/
def seqStart (dir : Direction) (v : Variant) (key : Vector Word 8) (b : Block) : Sequencer :=
  ⟨dir, v, key, .kexp, [], 0, b⟩

/-- R182: INIT: AddRoundKey(0) and rc <- 1, or AddRoundKey(Nr) and rc <- Nr-1. -/
def seqInit (q : Sequencer) : Sequencer :=
  match q.dir with
  | .encrypt => { q with phase := .round, rc := 1, block := addRoundKey q.block q.words 0 }
  | .decrypt => { q with phase := .round, rc := nrOf q.variant - 1, block := addRoundKey q.block q.words (nrOf q.variant) }

/-- R182: one ROUND, taken while 1 <= rc <= Nr-1; leaving that range is FINAL. -/
def seqRound (q : Sequencer) : Sequencer :=
  match q.dir with
  | .encrypt =>
    { q with phase := if q.rc + 1 ≤ nrOf q.variant - 1 then .round else .final, rc := q.rc + 1
             block := encRound q.words q.block q.rc }
  | .decrypt =>
    { q with phase := if 1 ≤ q.rc - 1 then .round else .final, rc := q.rc - 1
             block := decRound q.words q.block q.rc }

/-- R182: FINAL. -/
def seqFinal (q : Sequencer) : Sequencer :=
  match q.dir with
  | .encrypt => { q with phase := .finished, block := encFinal q.words (nrOf q.variant) q.block }
  | .decrypt => { q with phase := .finished, block := decFinal q.words q.block }

/-- One phase of the sequencer: "The phase sequence has no branch on data". -/
def seqStep (q : Sequencer) : Sequencer :=
  match q.phase with
  | .kexp => { q with phase := .init, words := keyExpansion q.key q.variant }
  | .init => seqInit q
  | .round => seqRound q
  | .final => seqFinal q
  | .finished => q

/-- `n` phases. -/
def seqRun : Nat → Sequencer → Sequencer
  | 0, q => q
  | n + 1, q => seqRun n (seqStep q)

end Sys2Proof.Machine
end

