-- ==== Sys2Proof/Safety.lean ====
section
/-! DEFINITION. What counts as a good state and as a host at fault, in the terms the statements use. -/
namespace Sys2Proof.Machine

/-- The invariant of every state a step can leave, and of the reset state: both buffers keep their canonical form and hold
no byte beyond BUF_BYTES (10_state.md R38), ERR holds a code the spec writes (60_exceptions.md R248), and "BUSY and DONE
are never both 1" (R28). -/
structure State.Inv (s : State) : Prop where
  inSorted : Memory.wf s.inBuf
  outSorted : Memory.wf s.outBuf
  inBounded : ∀ p ∈ s.inBuf, p.1 < bufBytes s
  outBounded : ∀ p ∈ s.outBuf, p.1 < bufBytes s
  errWritten : s.status.err.toNat ≤ 6
  notBoth : ¬(busy s = true ∧ s.status.done = true)

/-- 93_implementation_defined.md U10: "In a model of host software, a bus error is a host `fault`": the latest access of
the host was answered with the error response. -/
def hostFault (s : State) : Bool :=
  match s.response with
  | some (.read _ error) => error
  | some (.write error) => error
  | none => false

/-- `k` steps from `s`; every step of this machine answers a next state. -/
def runSteps (k : Nat) (s : State) : Host.Outcome State Fault Refusal :=
  match k with
  | 0 => .next s
  | k + 1 =>
    match step s with
    | .next t => runSteps k t
    | .fault r => .fault r
    | .refused r => .refused r

end Sys2Proof.Machine
end

