-- ==== Sys2Proof/Certificates/Slice0/Obligations.lean ====
section
/-! DEFINITION. The statements about the model, each a formalisation of the spec's numbered rules. Statements about the engine
say what `exec` answers, statements about the host what a bus access does; `StepTakesTheNextTurn` and
`StepRunsThePendingCommand` carry both to `step`. -/
namespace Sys2Proof.Spec
open Sys2Proof.Machine

/-! ## Words the statements use -/

/-- CTRL.KEYLEN holds the key length of variant `v` in bytes, 4 * Nk (R3, R24). -/
abbrev KeyLengthOf (v : Variant) (s : State) : Prop := s.ctrl.keylen.toNat = 4 * nkOf v

/-- CTRL.KEYLEN selects no variant (R130). -/
abbrev NoKeyLength (s : State) : Prop := s.ctrl.keylen ≠ 16 ∧ s.ctrl.keylen ≠ 24 ∧ s.ctrl.keylen ≠ 32

/-- STATUS after a completion with a code (R252), but for BUSY: DONE set, WERR kept, ERR the code. -/
abbrev completedStatus (s : State) (code : BitVec 4) : Status := ⟨true, s.status.werr, code⟩

/-- The schedule of a command at state `s` (R132, R136). -/
abbrev schedule (s : State) (v : Variant) : List Word := keyExpansion s.key v

/-- RK0-RK59 hold schedule `w` and 0 beyond it (R135). -/
abbrev HoldsSchedule (w : List Word) (v : Variant) (rk : Vector Word 60) : Prop :=
  ∀ i : Fin 60, rk[i] = if i.val < 4 * (nrOf v + 1) then w.getD i.val 0 else 0

/-- Block `j` of IN_BUF: bytes 16j .. 16j+15. -/
abbrev inBlock (s : State) (j : Nat) : Block :=
  ⟨bufferWord s .inBuf (16 * j), bufferWord s .inBuf (16 * j + 4), bufferWord s .inBuf (16 * j + 8),
   bufferWord s .inBuf (16 * j + 12)⟩

/-- Block `j` of OUT_BUF. -/
abbrev outBlock (s : State) (j : Nat) : Block :=
  ⟨bufferWord s .outBuf (16 * j), bufferWord s .outBuf (16 * j + 4), bufferWord s .outBuf (16 * j + 8),
   bufferWord s .outBuf (16 * j + 12)⟩

/-- Block `j` of the padded input stream, `p_j` (R203, R205). -/
abbrev paddedBlock (s : State) (j : Nat) : Block := blockAt (pad (streamBytes s)) j

/-- `q` is the stream ECB_DEC decrypts (R204): `q_j = InvCipher(c_j)`. -/
abbrev IsEcbDecryption (s : State) (v : Variant) (q : List Byte) : Prop :=
  q.length = streamLen s ∧ ∀ j, j < streamLen s / 16 → blockAt q j = invCipher (schedule s v) (nrOf v) (inBlock s j)

/-- `q` is the stream CBC_DEC decrypts (R206): `q_j = InvCipher(c_j) xor c_{j-1}`, with IV0-IV3 before block 0. -/
abbrev IsCbcDecryption (s : State) (v : Variant) (q : List Byte) : Prop :=
  q.length = streamLen s ∧ ∀ j, j < streamLen s / 16 →
    blockAt q j = (invCipher (schedule s v) (nrOf v) (inBlock s j)).xor (if j = 0 then s.iv else inBlock s (j - 1))

/-- The frame of a command that succeeds and writes OUT_BUF (R203-R206): only RK, OUT_BUF, OUT_LEN and STATUS differ, the
schedule is in RK, and OUT_BUF is unchanged from byte `n` on. -/
abbrev WroteOutput (s t : State) (v : Variant) (n : Nat) : Prop :=
  t = { s with
    rk := t.rk, outBuf := t.outBuf, outLen := t.outLen, pending := none, status := completedStatus s 0 } ∧
    HoldsSchedule (schedule s v) v t.rk ∧ ∀ a, n ≤ a → bufferByte t .outBuf a = bufferByte s .outBuf a

/-- The commands with OPC 0x10-0x13 (R252). -/
def isModeCommand : Instr → Bool
  | .ecbEnc => true
  | .ecbDec => true
  | .cbcEnc => true
  | .cbcDec => true
  | .expandKey => false
  | .encBlock => false
  | .decBlock => false
  | .subBytes => false
  | .invSubBytes => false
  | .shiftRows => false
  | .invShiftRows => false
  | .mixColumns => false
  | .invMixColumns => false
  | .addRoundKey _ => false

/-- The decrypting mode commands (R245, R247). -/
def isDecryptCommand : Instr → Bool
  | .ecbDec => true
  | .cbcDec => true
  | .ecbEnc => false
  | .cbcEnc => false
  | .expandKey => false
  | .encBlock => false
  | .decBlock => false
  | .subBytes => false
  | .invSubBytes => false
  | .shiftRows => false
  | .invShiftRows => false
  | .mixColumns => false
  | .invMixColumns => false
  | .addRoundKey _ => false

/-- The commands that run KeyExpansion (R136). -/
def usesKey : Instr → Bool
  | .expandKey => true
  | .encBlock => true
  | .decBlock => true
  | .ecbEnc => true
  | .ecbDec => true
  | .cbcEnc => true
  | .cbcDec => true
  | .addRoundKey _ => true
  | .subBytes => false
  | .invSubBytes => false
  | .shiftRows => false
  | .invShiftRows => false
  | .mixColumns => false
  | .invMixColumns => false

/-- The commands that write STATE0-STATE3 on success (R35). -/
def writesBlock : Instr → Bool
  | .encBlock => true
  | .decBlock => true
  | .subBytes => true
  | .invSubBytes => true
  | .shiftRows => true
  | .invShiftRows => true
  | .mixColumns => true
  | .invMixColumns => true
  | .addRoundKey _ => true
  | .expandKey => false
  | .ecbEnc => false
  | .ecbDec => false
  | .cbcEnc => false
  | .cbcDec => false

/-- The decrypted stream of a decrypt command fails `padOK` (R201, R247). -/
def badPadding (i : Instr) (s : State) (v : Variant) : Bool :=
  match i with
  | .ecbDec => !padOk (decryptBytes (ecbDecBlocks v s) s)
  | .cbcDec => !padOk (decryptBytes (cbcDecBlocks v s) s)
  | _ => false

/-- R249, R250: the first error of a legal command in the order of R249, each check made only for the commands R250 marks;
0 is ERR_NONE. -/
def firstError (i : Instr) (s : State) : BitVec 4 :=
  match usesKey i, selectedVariant s with
  | false, _ => 0
  | true, none => 2
  | true, some v =>
    if (match i with | .addRoundKey ridx => decide (nrOf v < ridx) | _ => false) then 6
    else if isModeCommand i && (decide (bufBytes s < streamLen s) ||
        !isDecryptCommand i && decide (bufBytes s < 16 * (streamLen s / 16 + 1))) then 5
    else if isDecryptCommand i && decide (streamLen s % 16 ≠ 0) then 3
    else if badPadding i s v then 4
    else 0

/-- R249, R252: the completion code of a pending word: ERR_ILLEGAL_CMD if it is no command, else the command's first
error. -/
def completionCode (c : Word) (s : State) : BitVec 4 :=
  match decode c with
  | .ok i => firstError i s
  | .error _ => 1

/-- R61: the mapped byte addresses for buffers of `size` bytes. -/
abbrev Mapped (size n : Nat) : Prop :=
  n < 0x14 ∨ 0x20 ≤ n ∧ n < 0x60 ∨ 0x100 ≤ n ∧ n < 0x1F0 ∨ 0x10000 ≤ n ∧ n < 0x10000 + size ∨
    0x20000 ≤ n ∧ n < 0x20000 + size

/-- R65: the read-only addresses: OUT_LEN, RK0-RK59, OUT_BUF. -/
abbrev ReadOnly (n : Nat) : Prop := 0x10 ≤ n ∧ n < 0x14 ∨ 0x100 ≤ n ∧ n < 0x1F0 ∨ 0x20000 ≤ n

/-- What the port answers to a read at address `n`. -/
abbrev readAnswer (n : Nat) (s : State) : Option BusResponse := (hostRead (BitVec.ofNat 18 n) s).response

/-- R155's matrix. -/
def mixMatrix : List (List Byte) := [[2, 3, 1, 1], [1, 2, 3, 1], [1, 1, 2, 3], [3, 1, 1, 2]]

/-- R156's matrix. -/
def invMixMatrix : List (List Byte) :=
  [[0x0E, 0x0B, 0x0D, 0x09], [0x09, 0x0E, 0x0B, 0x0D], [0x0D, 0x09, 0x0E, 0x0B], [0x0B, 0x0D, 0x09, 0x0E]]

/-- Row `r` of matrix `m` times column `c` of State `s`, "using `gmul` and XOR for addition" (R155). -/
def rowTimesColumn (m : List (List Byte)) (s : Block) (r c : Fin 4) : Byte :=
  gmul ((m.getD r.val []).getD 0 0) (s.entry 0 c) ^^^ gmul ((m.getD r.val []).getD 1 0) (s.entry 1 c) ^^^
    gmul ((m.getD r.val []).getD 2 0) (s.entry 2 c) ^^^ gmul ((m.getD r.val []).getD 3 0) (s.entry 3 c)

/-- R12: the product of two polynomials over GF(2), the second of degree below 8, with no reduction. -/
def polyMul (a b : BitVec 16) : BitVec 16 :=
  (List.range 8).foldl (fun p i => if b.getLsbD i then p ^^^ (a <<< i) else p) 0

/-- Bus accesses, the turns of the host. -/
def isHostAccess : Event → Bool
  | .read _ => true
  | .write _ _ => true
  | .engine => false
  | .reset => false

/-- The operands a pending command reads (R42): the same in both states. -/
abbrev SameOperands (s t : State) : Prop :=
  t.pending = s.pending ∧ t.ctrl = s.ctrl ∧ t.inLen = s.inLen ∧ t.key = s.key ∧ t.iv = s.iv ∧ t.block = s.block ∧
    ∀ a, bufferByte t .inBuf a = bufferByte s .inBuf a

/-- The CBC commands, which read IV (R34). -/
def usesIv : Instr → Bool
  | .cbcEnc => true
  | .cbcDec => true
  | .expandKey => false
  | .encBlock => false
  | .decBlock => false
  | .ecbEnc => false
  | .ecbDec => false
  | .subBytes => false
  | .invSubBytes => false
  | .shiftRows => false
  | .invShiftRows => false
  | .mixColumns => false
  | .invMixColumns => false
  | .addRoundKey _ => false

/-- Two states agree on the operands R93 lists for the command: KEYLEN and KEY, STATE (read by exactly the commands that
write it, R35), IV, and for a mode command IN_LEN, IN_BUF[0 .. L) and the machine's BUF_BYTES. -/
abbrev SameInputs (i : Instr) (s u : State) : Prop :=
  (usesKey i = true → s.ctrl.keylen = u.ctrl.keylen ∧ s.key = u.key) ∧ (writesBlock i = true → s.block = u.block) ∧
    (usesIv i = true → s.iv = u.iv) ∧
    (isModeCommand i = true → s.inLen = u.inLen ∧ s.bufBlocks = u.bufBlocks ∧
      ∀ a, a < streamLen s → bufferByte s .inBuf a = bufferByte u .inBuf a)

/-- Two runs of one command, with input length `n`, left the same in everything it writes: ERR, STATE, RK if it expanded the
key, OUT_LEN, and every byte of OUT_BUF it wrote. -/
abbrev SameResults (i : Instr) (n : Nat) (t u : State) : Prop :=
  t.status.err = u.status.err ∧ (writesBlock i = true → t.status.err = 0 → t.block = u.block) ∧
    (usesKey i = true → t.status.err = 0 ∨ t.status.err = 4 → t.rk = u.rk) ∧
    (isModeCommand i = true → t.outLen = u.outLen ∧
      (t.status.err = 0 ∨ t.status.err = 4 →
        ∀ a, a < n ∨ a < t.outLen.toNat → bufferByte t .outBuf a = bufferByte u .outBuf a))

end Sys2Proof.Spec

open Sys2Proof Sys2Proof.Machine Sys2Proof.Spec

/-! ## Encoding (30_encoding.md) -/

/-- R93, R97: decoding the word of a well-formed command gives the command back, RIDX at every value included. -/
def Obligations.DecodeOfEncodeIsTheCommand : Prop := ∀ i : Instr, i.wellFormed = true → decode (encode i) = .ok i

/-- R93, R97: a word that decodes is the encoding of the command it decodes to, which is well formed: no two words mean
the same command and no bit of a legal word is dropped. -/
def Obligations.EncodeOfDecodeIsTheWord : Prop :=
  ∀ (c : Word) (i : Instr), decode c = .ok i → encode i = c ∧ i.wellFormed = true

/-- The sentence of R97 that the spec marks as derived, "exactly one row matches a legal word and none matches an illegal
one"; and decoding selects that row. -/
def Obligations.LegalWordSelectsExactlyOneRow : Prop :=
  ∀ c : Word,
    (legal c = true → ∃ row ∈ opcodeMap, row.selectedBy c = true ∧ decode c = .ok (row.build (ridxField c).toNat) ∧
      ∀ other ∈ opcodeMap, other.selectedBy c = true → other = row) ∧
    (legal c = false → (∀ row ∈ opcodeMap, row.selectedBy c = false) ∧ ∃ why, decode c = .error why)

/-- R94: the legal words, listed: the 13 plain opcodes alone, and 0x26 with any RIDX in bits 11:8. -/
def Obligations.LegalWordsAreThoseListed : Prop :=
  ∀ c : Word, legal c = true ↔
    c.toNat ∈ [0x01, 0x02, 0x03, 0x10, 0x11, 0x12, 0x13, 0x20, 0x21, 0x22, 0x23, 0x24, 0x25] ∨
      ∃ r, r < 16 ∧ c.toNat = 0x26 + 256 * r

/-- R93: words written out bit by bit from the opcode map decode to the commands they stand for (a sanity statement). -/
def Obligations.WrittenWordsDecode : Prop :=
  (decode 0b00000000000000000000000000000001).toOption = some .expandKey ∧
  (decode 0b00000000000000000000000000000011).toOption = some .decBlock ∧
  (decode 0b00000000000000000000000000010010).toOption = some .cbcEnc ∧
  (decode 0b00000000000000000000000000100101).toOption = some .invMixColumns ∧
  (decode 0b00000000000000000000111000100110).toOption = some (.addRoundKey 14)

/-- R95: a host write of an illegal word to CMD while BUSY = 0 issues it like any command, and the engine step completes it
with ERR_ILLEGAL_CMD; from the write to the completion no register but STATUS changes, whatever the word. -/
def Obligations.IllegalWordChangesOnlyStatus : Prop :=
  ∀ (s : State) (c : Word), busy s = false → legal c = false →
    hostWrite 0x00004 c s = { s with
      response := some (.write false), pending := some c, status := ⟨false, s.status.werr, 0⟩ } ∧
    engineTurn (hostWrite 0x00004 c s) = .next { s with
      response := some (.write false), status := completedStatus s 1 }

/-! ## The step (10_state.md R41, R42) -/

/-- A step runs the decoded command: when the pending word decodes to `i`, the engine's turn is `exec i`, taken at once when
the agenda is empty, or when the agenda gives the engine the turn; the word withFetchWord places is run next. The order of
turns is the model's choice (log entry 1). -/
def Obligations.StepRunsThePendingCommand : Prop :=
  (∀ (s : State) (c : Word) (i : Instr), s.pending = some c → decode c = .ok i →
    (s.agenda = [] → step s = exec i s) ∧
    (∀ rest, s.agenda = .engine :: rest → step s = exec i { s with agenda := rest })) ∧
  (∀ (s : State) (i : Instr), i.wellFormed = true →
    step (s.withFetchWord 32 (encode i).toNat) = exec i (s.withFetchWord 32 (encode i).toNat))

/-- R41, R42: a step takes the next turn of the agenda; the engine's turn, taken also when no turn is left, is `engineTurn`
in every state, with a legal word, an illegal word or none pending; "When BUSY = 0 the engine has no step". The agenda is
the model's choice (log entry 1). -/
def Obligations.StepTakesTheNextTurn : Prop :=
  ∀ (s : State) (rest : List Event),
    (∀ a, s.agenda = .read a :: rest → step s = .next (hostRead a { s with agenda := rest })) ∧
    (∀ a d, s.agenda = .write a d :: rest → step s = .next (hostWrite a d { s with agenda := rest })) ∧
    (s.agenda = .reset :: rest → step s = .next (resetState { s with agenda := rest })) ∧
    (s.agenda = .engine :: rest → step s = engineTurn { s with agenda := rest }) ∧
    (s.agenda = [] → step s = engineTurn s) ∧
    (busy s = false → s.agenda = .engine :: rest → step s = .next { s with agenda := rest }) ∧
    (busy s = false → s.agenda = [] → step s = .next s)

/-- No step of AES-CORE faults or is refused: a command's error is a completion code and a bus error an answer of the port,
and that neither is ever a fault of the machine is the model's reading (log entry 7). -/
def Obligations.EveryStepAnswersNext : Prop := ∀ s : State, ∃ t, step s = .next t

/-! ## GF(2^8) and the tables (40_gf_tables.md) -/

/-- R12: a byte stands for a polynomial over GF(2), addition is XOR, and gmul is the product of the polynomials reduced
modulo x^8+x^4+x^3+x+1 (0x11B): the product differs from `gmul a b`, of degree below 8, by a multiple `q` of 0x11B. -/
def Obligations.GmulIsTheReducedPolynomialProduct : Prop :=
  ∀ a b : Byte, ∃ q : Byte,
    polyMul (a.setWidth 16) (b.setWidth 16) = polyMul 0x011B (q.setWidth 16) ^^^ (gmul a b).setWidth 16

/-- The sentence of 40_gf_tables.md that the spec marks as derived: gmul is commutative, associative, distributes over
XOR, has identity 0x01, and every nonzero byte has a unique inverse. -/
def Obligations.GmulIsFieldMultiplication : Prop :=
  (∀ a b : Byte, gmul a b = gmul b a) ∧ (∀ a b c : Byte, gmul (gmul a b) c = gmul a (gmul b c)) ∧
  (∀ a b c : Byte, gmul a (b ^^^ c) = gmul a b ^^^ gmul a c) ∧ (∀ a : Byte, gmul a 0x01 = a) ∧
  (∀ a : Byte, a ≠ 0 → ∃ b, gmul a b = 0x01 ∧ ∀ b', gmul a b' = 0x01 → b' = b)

/-- The law of 40_gf_tables.md section 2, which the spec marks as derived by computation: "`InvSBox[SBox[x]] = x` for all
x", and also `SBox[InvSBox[y]] = y`. -/
def Obligations.SubstitutionTablesAreInverse : Prop :=
  (∀ x : Byte, invSbox (sbox x) = x) ∧ ∀ y : Byte, sbox (invSbox y) = y

/-- The law of 40_gf_tables.md section 2, which the spec marks as derived: `Rcon[0] = 0x01`, `Rcon[i+1] = xtime(Rcon[i])`,
and the stated last value 0x36. -/
def Obligations.RconDoublesFromOneToThirtySix : Prop :=
  rcon 0 = 0x01 ∧ (∀ i, i < 9 → rcon (i + 1) = xtime (rcon i)) ∧ rcon 9 = 0x36 ∧ rconTable.length = 10

/-! ## Key schedule (41_key_schedule.md) -/

/-- R132: the schedule has 4*(Nr+1) words, begins with the key words, and every later word is `w[i-Nk] xor temp` with
`temp` as the algorithm computes it from `w[i-1]`. In it RotWord moves byte `j+1 mod 4` to byte `j` (R118), SubWord applies
SBox to each byte (R119), and RconWord(i) is the byte Rcon[i] and three zero bytes. -/
def Obligations.KeyExpansionFollowsTheAlgorithm : Prop :=
  (∀ (key : Vector Word 8) (v : Variant) (w : List Word), w = keyExpansion key v →
    w.length = 4 * (nrOf v + 1) ∧
    (∀ i : Fin 8, i.val < nkOf v → w.getD i.val 0 = key[i]) ∧
    (∀ i, nkOf v ≤ i → i < 4 * (nrOf v + 1) →
      w.getD i 0 = w.getD (i - nkOf v) 0 ^^^
        (if i % nkOf v = 0 then subWord (rotWord (w.getD (i - 1) 0)) ^^^ rconWord (i / nkOf v - 1)
         else if nkOf v = 8 ∧ i % nkOf v = 4 then subWord (w.getD (i - 1) 0)
         else w.getD (i - 1) 0))) ∧
  (∀ (x : Word) (j : Fin 4), byte (rotWord x) j.val = byte x ((j.val + 1) % 4)) ∧
  (∀ (x : Word) (j : Fin 4), byte (subWord x) j.val = sbox (byte x j.val)) ∧
  (∀ i, i < 10 → byte (rconWord i) 0 = rcon i ∧ byte (rconWord i) 1 = 0 ∧ byte (rconWord i) 2 = 0 ∧
    byte (rconWord i) 3 = 0)

/-- R137: EXPAND_KEY with a valid key length writes the schedule of KEY to RK0-RK59 and completes with ERR_NONE; nothing
else changes. -/
def Obligations.ExpandKeyWritesTheSchedule : Prop :=
  ∀ (s : State) (v : Variant), KeyLengthOf v s →
    ∃ rk, HoldsSchedule (schedule s v) v rk ∧
      exec .expandKey s = .next { s with rk := rk, pending := none, status := completedStatus s 0 }

/-- R135: a key-using command that expands the key (it ends without error, or with ERR_INVALID_PADDING) leaves the schedule
of KEY in RK and 0 in the unused words; one that fails before expansion leaves RK unchanged, and so does a command that
does not use the key (R136). -/
def Obligations.RoundKeyFileAfterACommand : Prop :=
  ∀ (i : Instr) (s t : State), exec i s = .next t →
    (∀ v, usesKey i = true → KeyLengthOf v s → t.status.err = 0 ∨ t.status.err = 4 →
      HoldsSchedule (schedule s v) v t.rk) ∧
    (t.status.err ≠ 0 ∧ t.status.err ≠ 4 → t.rk = s.rk) ∧ (usesKey i = false → t.rk = s.rk)

/-! ## Round engine (42_round_engine.md) -/

/-- R150: `s[r][c] = byte(STATE[c], r)`, "register STATEc is column c, row 0 in bits 31:24"; byte `i` of a block is
`state[i mod 4][i div 4]`, both ways; and `FromState(ToState(b)) = b`. -/
def Obligations.StateIsColumnMajor : Prop :=
  (∀ (s : Block) (r c : Fin 4), s.entry r c = (s.col c).extractLsb' (24 - 8 * r.val) 8) ∧
  (∀ (s : Block) (i : Fin 16), s.toBytes.getD i.val 0 = s.entry (Fin.ofNat 4 i.val) (Fin.ofNat 4 (i.val / 4))) ∧
  (∀ (x : List Byte) (r c : Fin 4), (blockAt x 0).entry r c = x.getD (r.val + 4 * c.val) 0) ∧
  (∀ x : List Byte, x.length = 16 → (blockAt x 0).toBytes = x)

/-- R151, R152: SubBytes and InvSubBytes replace each of the 16 bytes by its table entry; SUB_BYTES and INV_SUB_BYTES apply
them to STATE, complete with ERR_NONE whatever KEYLEN holds, and change nothing else. -/
def Obligations.SubBytesCommandsReplaceEachByte : Prop :=
  (∀ (b : Block) (r c : Fin 4), (subBytes b).entry r c = sbox (b.entry r c)) ∧
  (∀ (b : Block) (r c : Fin 4), (invSubBytes b).entry r c = invSbox (b.entry r c)) ∧
  ∀ s : State,
    exec .subBytes s = .next { s with block := subBytes s.block, pending := none, status := completedStatus s 0 } ∧
    exec .invSubBytes s = .next { s with block := invSubBytes s.block, pending := none, status := completedStatus s 0 }

/-- R153, R154: ShiftRows and InvShiftRows rotate row `r` left and right by `r` positions; SHIFT_ROWS and INV_SHIFT_ROWS
apply them to STATE, complete with ERR_NONE and change nothing else. -/
def Obligations.ShiftRowsCommandsRotateRows : Prop :=
  (∀ (b : Block) (r c : Fin 4), (shiftRows b).entry r c = b.entry r (Fin.ofNat 4 (c.val + r.val))) ∧
  (∀ (b : Block) (r c : Fin 4), (invShiftRows b).entry r c = b.entry r (Fin.ofNat 4 (c.val + 4 - r.val))) ∧
  ∀ s : State,
    exec .shiftRows s = .next { s with block := shiftRows s.block, pending := none, status := completedStatus s 0 } ∧
    exec .invShiftRows s = .next { s with
      block := invShiftRows s.block, pending := none, status := completedStatus s 0 }

/-- R155, R156: MixColumns and InvMixColumns replace each column by the product of the rule's matrix and the column, and the
second undoes the first; MIX_COLUMNS and INV_MIX_COLUMNS apply them to STATE, complete with ERR_NONE and change nothing
else. -/
def Obligations.MixColumnsCommandsMultiplyColumns : Prop :=
  (∀ (b : Block) (r c : Fin 4), (mixColumns b).entry r c = rowTimesColumn mixMatrix b r c) ∧
  (∀ (b : Block) (r c : Fin 4), (invMixColumns b).entry r c = rowTimesColumn invMixMatrix b r c) ∧
  (∀ b : Block, invMixColumns (mixColumns b) = b) ∧
  ∀ s : State,
    exec .mixColumns s = .next { s with block := mixColumns s.block, pending := none, status := completedStatus s 0 } ∧
    exec .invMixColumns s = .next { s with
      block := invMixColumns s.block, pending := none, status := completedStatus s 0 }

/-- AddRoundKey XORs byte `j` of `w[4r+c]` into row `j`, column `c`, and is its own inverse (42_round_engine.md section 1); on
the STATE registers this is `STATE[c] <- STATE[c] xor w[4r+c]`, the sentence the spec marks as derived. ADD_ROUND_KEY with
RIDX <= Nr does so with r = RIDX, writes the schedule to RK, completes with ERR_NONE and changes nothing else (section 2). -/
def Obligations.AddRoundKeyXorsTheRoundKey : Prop :=
  (∀ (b : Block) (w : List Word) (r : Nat) (j c : Fin 4),
    (addRoundKey b w r).entry j c = b.entry j c ^^^ byte (w.getD (4 * r + c.val) 0) j.val) ∧
  (∀ (b : Block) (w : List Word) (r : Nat), addRoundKey (addRoundKey b w r) w r = b) ∧
  ∀ (s : State) (v : Variant) (ridx : Nat), KeyLengthOf v s → ridx ≤ nrOf v →
    ∃ b rk, (∀ c : Fin 4, b.col c = s.block.col c ^^^ (schedule s v).getD (4 * ridx + c.val) 0) ∧
      HoldsSchedule (schedule s v) v rk ∧
      exec (.addRoundKey ridx) s =
        .next { s with block := b, rk := rk, pending := none, status := completedStatus s 0 }

/-- R243: ADD_ROUND_KEY with a valid key length and RIDX > Nr completes with ERR_ROUND_RANGE and changes nothing else; with
an invalid key length it reports that first, whatever RIDX is. -/
def Obligations.AddRoundKeyChecksTheRoundRange : Prop :=
  ∀ (s : State) (ridx : Nat),
    (∀ v, KeyLengthOf v s → nrOf v < ridx →
      exec (.addRoundKey ridx) s = .next { s with pending := none, status := completedStatus s 6 }) ∧
    (NoKeyLength s → exec (.addRoundKey ridx) s = .next { s with pending := none, status := completedStatus s 2 })

/-- The laws at the end of 42_round_engine.md, which the spec marks as derived: the primitives' inverses undo them, and
the two commutations. -/
def Obligations.PrimitivesHaveInverses : Prop :=
  ∀ (s : Block) (w : List Word) (r : Nat),
    invSubBytes (subBytes s) = s ∧ invShiftRows (shiftRows s) = s ∧ invMixColumns (mixColumns s) = s ∧
    addRoundKey (addRoundKey s w r) w r = s ∧ subBytes (shiftRows s) = shiftRows (subBytes s) ∧
    invSubBytes (invShiftRows s) = invShiftRows (invSubBytes s)

/-! ## Block cipher (43_block_cipher.md) -/

/-- R180: Cipher passes through states `st 0` (after AddRoundKey(0)), `st 1` .. `st (Nr-1)` (after each middle round), and
ends with SubBytes, ShiftRows, AddRoundKey(Nr). -/
def Obligations.CipherRunsTheRoundsInOrder : Prop :=
  ∀ (w : List Word) (v : Variant) (b : Block), ∃ st : Nat → Block,
    st 0 = addRoundKey b w 0 ∧
    (∀ r, 1 ≤ r → r ≤ nrOf v - 1 → st r = addRoundKey (mixColumns (shiftRows (subBytes (st (r - 1))))) w r) ∧
    cipher w (nrOf v) b = addRoundKey (shiftRows (subBytes (st (nrOf v - 1)))) w (nrOf v)

/-- R181: InvCipher passes through states `st Nr` (after AddRoundKey(Nr)), `st (Nr-1)` down to `st 1`, and ends with
InvShiftRows, InvSubBytes, AddRoundKey(0). -/
def Obligations.InvCipherRunsTheRoundsBackwards : Prop :=
  ∀ (w : List Word) (v : Variant) (b : Block), ∃ st : Nat → Block,
    st (nrOf v) = addRoundKey b w (nrOf v) ∧
    (∀ r, 1 ≤ r → r ≤ nrOf v - 1 → st r = invMixColumns (addRoundKey (invSubBytes (invShiftRows (st (r + 1)))) w r)) ∧
    invCipher w (nrOf v) b = addRoundKey (invSubBytes (invShiftRows (st 1))) w 0

/-- R182: the round sequencer, run for Nr + 2 phases, ends with the result of Cipher or InvCipher; ROUND is taken Nr-1 times
with the round counter rising from 1 or falling from Nr-1, whatever the data. -/
def Obligations.SequencerComputesTheCiphers : Prop :=
  ∀ (v : Variant) (key : Vector Word 8) (b : Block),
    (∀ dir, (seqRun (nrOf v + 2) (seqStart dir v key b)).phase = .finished) ∧
    (seqRun (nrOf v + 2) (seqStart .encrypt v key b)).block = cipher (keyExpansion key v) (nrOf v) b ∧
    (seqRun (nrOf v + 2) (seqStart .decrypt v key b)).block = invCipher (keyExpansion key v) (nrOf v) b ∧
    (∀ dir k, k < nrOf v - 1 → (seqRun (k + 2) (seqStart dir v key b)).phase = .round) ∧
    (∀ k, k < nrOf v - 1 → (seqRun (k + 2) (seqStart .encrypt v key b)).rc = k + 1) ∧
    (∀ k, k < nrOf v - 1 → (seqRun (k + 2) (seqStart .decrypt v key b)).rc = nrOf v - 1 - k) ∧
    (∀ dir, (seqRun (nrOf v + 1) (seqStart dir v key b)).phase = .final)

/-- R183: ENC_BLOCK with a valid key length replaces STATE by its Cipher under the schedule of KEY, writes the schedule to
RK, completes with ERR_NONE and changes nothing else. -/
def Obligations.EncBlockEnciphersState : Prop :=
  ∀ (s : State) (v : Variant), KeyLengthOf v s →
    ∃ rk, HoldsSchedule (schedule s v) v rk ∧
      exec .encBlock s = .next { s with
        block := cipher (schedule s v) (nrOf v) s.block, rk := rk, pending := none, status := completedStatus s 0 }

/-- R184: DEC_BLOCK, the same with InvCipher. -/
def Obligations.DecBlockDeciphersState : Prop :=
  ∀ (s : State) (v : Variant), KeyLengthOf v s →
    ∃ rk, HoldsSchedule (schedule s v) v rk ∧
      exec .decBlock s = .next { s with
        block := invCipher (schedule s v) (nrOf v) s.block, rk := rk, pending := none, status := completedStatus s 0 }

/-- The inverse law of 43_block_cipher.md section 3, which the spec marks as derived: InvCipher undoes Cipher and Cipher
undoes InvCipher under every schedule; on the machine, ENC_BLOCK then DEC_BLOCK with the same key restores STATE. -/
def Obligations.DecryptionUndoesEncryption : Prop :=
  (∀ (w : List Word) (v : Variant) (b : Block),
    invCipher w (nrOf v) (cipher w (nrOf v) b) = b ∧ cipher w (nrOf v) (invCipher w (nrOf v) b) = b) ∧
  (∀ (s t : State) (v : Variant), KeyLengthOf v s → exec .encBlock s = .next t →
    ∃ u, exec .decBlock t = .next u ∧ u.block = s.block ∧ u.status.err = 0)

/-! ## Padding and modes (44_modes.md) -/

/-- R200: `Pad(m)` is `m` followed by padLen copies of the byte padLen, with padLen in 1..16, and its length is
`16*(L div 16 + 1)`. -/
def Obligations.PadAppendsItsOwnLength : Prop :=
  ∀ m : List Byte, ∃ p, 1 ≤ p ∧ p ≤ 16 ∧ (m.length % 16 = 0 → p = 16) ∧ (m.length % 16 ≠ 0 → p = 16 - m.length % 16) ∧
    pad m = m ++ List.replicate p (BitVec.ofNat 8 p) ∧ (pad m).length = 16 * (m.length / 16 + 1)

/-- R201: padOK accepts exactly the nonempty whole-block streams that end in p copies of p for some p in 1..16. -/
def Obligations.PadOkAcceptsExactlyPaddedStreams : Prop :=
  ∀ q : List Byte, padOk q = true ↔
    0 < q.length ∧ q.length % 16 = 0 ∧
      ∃ (m : List Byte) (p : Nat), 1 ≤ p ∧ p ≤ 16 ∧ q = m ++ List.replicate p (BitVec.ofNat 8 p)

/-- Every output of Pad is accepted (44_modes.md section 1, which the spec marks as derived), and Unpad recovers the input
exactly. -/
def Obligations.UnpadRecoversThePaddedInput : Prop :=
  ∀ m : List Byte, padOk (pad m) = true ∧ unpad (pad m) = m

/-- R203: ECB_ENC with a valid key length and L < BUF_BYTES writes Cipher of each padded block to OUT_BUF in stream order,
sets OUT_LEN to the padded length, and changes nothing else but RK and STATUS. -/
def Obligations.EcbEncEnciphersEachBlock : Prop :=
  ∀ (s : State) (v : Variant), KeyLengthOf v s → streamLen s < bufBytes s →
    ∃ t, exec .ecbEnc s = .next t ∧ WroteOutput s t v (16 * (streamLen s / 16 + 1)) ∧
      t.outLen.toNat = 16 * (streamLen s / 16 + 1) ∧
      ∀ j, j < streamLen s / 16 + 1 → outBlock t j = cipher (schedule s v) (nrOf v) (paddedBlock s j)

/-- R205: CBC_ENC under the same conditions: `c_0 = Cipher(p_0 xor iv0)` and `c_{j+1} = Cipher(p_{j+1} xor c_j)`; IV0-IV3
are not changed. -/
def Obligations.CbcEncChainsCiphertextBlocks : Prop :=
  ∀ (s : State) (v : Variant), KeyLengthOf v s → streamLen s < bufBytes s →
    ∃ t, exec .cbcEnc s = .next t ∧ WroteOutput s t v (16 * (streamLen s / 16 + 1)) ∧
      t.outLen.toNat = 16 * (streamLen s / 16 + 1) ∧
      outBlock t 0 = cipher (schedule s v) (nrOf v) ((paddedBlock s 0).xor s.iv) ∧
      ∀ j, j < streamLen s / 16 →
        outBlock t (j + 1) = cipher (schedule s v) (nrOf v) ((paddedBlock s (j + 1)).xor (outBlock t j))

/-- R204: ECB_DEC with a valid key length, L <= BUF_BYTES, L mod 16 = 0 and a correctly padded decryption `q` writes all
of `q` to OUT_BUF[0 .. L), pad included, sets OUT_LEN = L - q[L-1], and changes nothing else but RK and STATUS. -/
def Obligations.EcbDecDeciphersEachBlock : Prop :=
  ∀ (s : State) (v : Variant) (q : List Byte), KeyLengthOf v s → streamLen s ≤ bufBytes s → streamLen s % 16 = 0 →
    IsEcbDecryption s v q → padOk q = true →
    ∃ t, exec .ecbDec s = .next t ∧ WroteOutput s t v (streamLen s) ∧
      t.outLen.toNat = streamLen s - (q.getD (streamLen s - 1) 0).toNat ∧
      ∀ a, a < streamLen s → bufferByte t .outBuf a = q.getD a 0

/-- R206: CBC_DEC under the same conditions on its own decryption `q`; IV0-IV3 are not changed. -/
def Obligations.CbcDecUnchainsCiphertextBlocks : Prop :=
  ∀ (s : State) (v : Variant) (q : List Byte), KeyLengthOf v s → streamLen s ≤ bufBytes s → streamLen s % 16 = 0 →
    IsCbcDecryption s v q → padOk q = true →
    ∃ t, exec .cbcDec s = .next t ∧ WroteOutput s t v (streamLen s) ∧
      t.outLen.toNat = streamLen s - (q.getD (streamLen s - 1) 0).toNat ∧
      ∀ a, a < streamLen s → bufferByte t .outBuf a = q.getD a 0

/-- R209: when the decryption is not correctly padded, ECB_DEC and CBC_DEC zero OUT_BUF[0 .. L), leave the rest of it, set
OUT_LEN = 0, keep the RK contents their key expansion wrote and complete with ERR_INVALID_PADDING; nothing else changes. -/
def Obligations.PaddingFailureShowsNoDecryptedByte : Prop :=
  ∀ (s : State) (v : Variant) (q : List Byte) (i : Instr), KeyLengthOf v s → streamLen s ≤ bufBytes s →
    streamLen s % 16 = 0 → (i = .ecbDec ∧ IsEcbDecryption s v q ∨ i = .cbcDec ∧ IsCbcDecryption s v q) →
    padOk q = false →
    ∃ t, exec i s = .next t ∧ HoldsSchedule (schedule s v) v t.rk ∧
      t = { s with rk := t.rk, outBuf := t.outBuf, outLen := 0, pending := none, status := completedStatus s 4 } ∧
      (∀ a, a < streamLen s → bufferByte t .outBuf a = 0x00) ∧
      ∀ a, streamLen s ≤ a → bufferByte t .outBuf a = bufferByte s .outBuf a

/-- The round-trip law of 44_modes.md section 4, which the spec marks as derived: what ECB_ENC or CBC_ENC makes of a
stream of L < BUF_BYTES bytes, copied to IN_BUF and IN_LEN of a machine with the same key, key length, IV and buffer
size, is decrypted by ECB_DEC or CBC_DEC to the same L bytes, with ERR_NONE. -/
def Obligations.ModeRoundTripRestoresTheStream : Prop :=
  ∀ (s t u : State) (v : Variant) (enc dec : Instr),
    (enc = .ecbEnc ∧ dec = .ecbDec ∨ enc = .cbcEnc ∧ dec = .cbcDec) →
    KeyLengthOf v s → streamLen s < bufBytes s → exec enc s = .next t →
    u.ctrl.keylen = s.ctrl.keylen → u.key = s.key → u.iv = s.iv → u.bufBlocks = s.bufBlocks → u.inLen = t.outLen →
    (∀ a, a < t.outLen.toNat → bufferByte u .inBuf a = bufferByte t .outBuf a) →
    ∃ x, exec dec u = .next x ∧ x.status.err = 0 ∧ x.outLen.toNat = streamLen s ∧
      ∀ a, a < streamLen s → bufferByte x .outBuf a = bufferByte s .inBuf a

/-- The properties of 44_modes.md section 4, which the spec marks as derived. ECB: where ECB_ENC runs, identical blocks of the
padded input give identical blocks of OUT_BUF. CBC: changing only plaintext block `i` leaves the ciphertext blocks before
`i` and changes block `i` and every one after it. -/
def Obligations.ChainingSpreadsAChangeForwardOnly : Prop :=
  (∀ (s t : State) (v : Variant) (i j : Nat), KeyLengthOf v s → streamLen s < bufBytes s → exec .ecbEnc s = .next t →
    i < streamLen s / 16 + 1 → j < streamLen s / 16 + 1 → paddedBlock s i = paddedBlock s j →
    outBlock t i = outBlock t j) ∧
  ∀ (w : List Word) (v : Variant) (iv : Block) (ps : List Block) (i : Nat) (p : Block), i < ps.length → ps[i]? ≠ some p →
    (∀ j, j < i → (cbcEncrypt (cipher w (nrOf v)) iv (ps.set i p))[j]? = (cbcEncrypt (cipher w (nrOf v)) iv ps)[j]?) ∧
    ∀ j, i ≤ j → j < ps.length →
      (cbcEncrypt (cipher w (nrOf v)) iv (ps.set i p))[j]? ≠ (cbcEncrypt (cipher w (nrOf v)) iv ps)[j]?

/-! ## Errors and completion (60_exceptions.md) -/

/-- R244: every key-using command completes with ERR_INVALID_KEY_LENGTH when KEYLEN is not 16, 24 or 32, with no effect but
STATUS and, for a mode command, OUT_LEN = 0. -/
def Obligations.InvalidKeyLengthIsRejected : Prop :=
  ∀ (i : Instr) (s : State), usesKey i = true → NoKeyLength s →
    exec i s = .next { s with
      outLen := if isModeCommand i then 0 else s.outLen, pending := none, status := completedStatus s 2 }

/-- R246: with a valid key length, an encrypt command with L >= BUF_BYTES and a decrypt command with L > BUF_BYTES complete
with ERR_LENGTH, OUT_LEN = 0 and no other effect. -/
def Obligations.OverlongStreamIsRejected : Prop :=
  ∀ (s : State) (v : Variant) (i : Instr), KeyLengthOf v s →
    ((i = .ecbEnc ∨ i = .cbcEnc) ∧ bufBytes s ≤ streamLen s ∨ (i = .ecbDec ∨ i = .cbcDec) ∧ bufBytes s < streamLen s) →
    exec i s = .next { s with outLen := 0, pending := none, status := completedStatus s 5 }

/-- R245: ECB_DEC and CBC_DEC with a valid key length and a fitting stream whose length is not a multiple of 16 complete
with ERR_INVALID_BLOCK_ALIGNMENT, OUT_LEN = 0 and no other effect; encrypt commands never report it. -/
def Obligations.UnalignedCiphertextIsRejected : Prop :=
  (∀ (s : State) (v : Variant) (i : Instr), KeyLengthOf v s → (i = .ecbDec ∨ i = .cbcDec) →
    streamLen s ≤ bufBytes s → streamLen s % 16 ≠ 0 →
    exec i s = .next { s with outLen := 0, pending := none, status := completedStatus s 3 }) ∧
  (∀ (s t : State) (i : Instr), (i = .ecbEnc ∨ i = .cbcEnc) → exec i s = .next t → t.status.err ≠ 3)

/-- R249, R250: the engine step of a pending word ends with the first error of R249's order that applies to it, each check
made only for the commands R250 marks, ERR_ILLEGAL_CMD first; and every error but ERR_INVALID_PADDING is found before any
transform work: STATE, RK and OUT_BUF are as before. -/
def Obligations.FirstApplicableErrorIsReported : Prop :=
  ∀ (s : State) (c : Word), s.pending = some c → ∃ t, engineTurn s = .next t ∧ t.status.err = completionCode c s ∧
    (t.status.err ≠ 0 → t.status.err ≠ 4 → t.block = s.block ∧ t.rk = s.rk ∧ t.outBuf = s.outBuf)

/-- R251: a host write of `c` to CMD while BUSY = 0 latches `c`, sets BUSY, clears DONE and ERR, keeps WERR, and changes
nothing else. -/
def Obligations.WriteToCmdIssues : Prop :=
  ∀ (s : State) (c : Word), busy s = false →
    hostWrite 0x00004 c s = { s with
      pending := some c, status := ⟨false, s.status.werr, 0⟩, response := some (.write false) } ∧
    busy (hostWrite 0x00004 c s) = true

/-- R252, R248: the engine step of a pending word completes it: BUSY = 0, DONE = 1, WERR kept, ERR its completion code (0 to
6), OUT_LEN = 0 if it is a mode command and ends with an error, OUT_LEN kept if it is illegal. -/
def Obligations.EveryCommandCompletes : Prop :=
  ∀ (s : State) (c : Word), s.pending = some c →
    ∃ t, engineTurn s = .next t ∧ busy t = false ∧ t.status.done = true ∧ t.status.werr = s.status.werr ∧
      t.status.err = completionCode c s ∧ t.status.err.toNat ≤ 6 ∧
      (∀ i, decode c = .ok i → isModeCommand i = true → t.status.err ≠ 0 → t.outLen = 0) ∧
      (legal c = false → t.status.err = 1 ∧ t.outLen = s.outLen)

/-- R253, R33, R34, R35, R32: no command changes CTRL, IN_LEN, KEY, IV or IN_BUF; only the block and primitive commands
change STATE, only mode commands OUT_BUF and OUT_LEN; an error but ERR_INVALID_PADDING changes none of STATE, RK and
OUT_BUF. -/
def Obligations.CommandsWriteOnlyTheirResults : Prop :=
  ∀ (i : Instr) (s t : State), exec i s = .next t →
    t.ctrl = s.ctrl ∧ t.inLen = s.inLen ∧ t.key = s.key ∧ t.iv = s.iv ∧
    (∀ a, bufferByte t .inBuf a = bufferByte s .inBuf a) ∧
    (writesBlock i = false → t.block = s.block) ∧
    (isModeCommand i = false → t.outLen = s.outLen ∧ ∀ a, bufferByte t .outBuf a = bufferByte s .outBuf a) ∧
    (t.status.err ≠ 0 → t.block = s.block) ∧
    (t.status.err ≠ 0 → t.status.err ≠ 4 → t.rk = s.rk ∧ ∀ a, bufferByte t .outBuf a = bufferByte s .outBuf a)

/-- R259: irq is IE and DONE at all times: it is IE after any completion; it is 0 after a write of 1 to STATUS bit 1, after
an issue and after reset; and no read, no bus error of a read or a write, and no dropped write changes it. -/
def Obligations.InterruptFollowsCompletion : Prop :=
  (∀ s : State, irq s = (s.ctrl.ie && s.status.done)) ∧
  (∀ (s t : State), busy s = true → engineTurn s = .next t → irq t = s.ctrl.ie) ∧
  (∀ (s : State) (d : Word), d.getLsbD 1 = true → irq (hostWrite 0x00008 d s) = false) ∧
  (∀ (s : State) (c : Word), busy s = false → irq (hostWrite 0x00004 c s) = false) ∧
  (∀ s : State, irq (resetState s) = false) ∧
  (∀ (s : State) (a : BitVec 18), irq (hostRead a s) = irq s) ∧
  (∀ (s : State) (a : BitVec 18) (d : Word), hostFault (hostWrite a d s) = true ∨ (busy s = true ∧ a ≠ 0x00008) →
    irq (hostWrite a d s) = irq s)

/-! ## The bus (20_memory.md, 70_reset_and_hazards.md) -/

/-- R63-R66, R257: a misaligned or unmapped access and a write to a read-only location are answered with the error response
(a read with data 0) and have no effect, whether or not a command is pending; every other access is answered without
error, a read of the write-only CMD with 0. -/
def Obligations.BusErrorsHaveNoEffect : Prop :=
  ∀ (s : State) (a : BitVec 18) (d : Word),
    (a.toNat % 4 ≠ 0 ∨ ¬Mapped (bufBytes s) a.toNat → hostRead a s = { s with response := some (.read 0 true) }) ∧
    (a.toNat % 4 ≠ 0 ∨ ¬Mapped (bufBytes s) a.toNat ∨ ReadOnly a.toNat →
      hostWrite a d s = { s with response := some (.write true) }) ∧
    (a.toNat % 4 = 0 ∧ Mapped (bufBytes s) a.toNat → hostFault (hostRead a s) = false) ∧
    hostRead 0x00004 s = { s with response := some (.read 0 false) } ∧
    (a.toNat % 4 = 0 ∧ Mapped (bufBytes s) a.toNat ∧ ¬ReadOnly a.toNat → hostFault (hostWrite a d s) = false)

/-- R61, R23, R26, R31-R36, R68: what an aligned read returns: CTRL, CMD, STATUS, IN_LEN, KEY, IV and IN_BUF in every state,
OUT_LEN, STATE, RK and OUT_BUF while BUSY = 0; reserved bits read 0 and buffer words are big-endian. -/
def Obligations.ReadsReturnTheRegisters : Prop :=
  ∀ s : State,
    (∃ w : Word, readAnswer 0x00 s = some (.read w false) ∧ w.extractLsb' 0 8 = s.ctrl.keylen ∧
      w.getLsbD 8 = s.ctrl.ie ∧ w.extractLsb' 9 23 = 0) ∧
    readAnswer 0x04 s = some (.read 0 false) ∧
    (∃ w : Word, readAnswer 0x08 s = some (.read w false) ∧ w.getLsbD 0 = busy s ∧ w.getLsbD 1 = s.status.done ∧
      w.getLsbD 2 = s.status.werr ∧ w.getLsbD 3 = false ∧ w.extractLsb' 4 4 = s.status.err ∧ w.extractLsb' 8 24 = 0) ∧
    (∃ w : Word, readAnswer 0x0C s = some (.read w false) ∧ w.toNat = s.inLen.toNat) ∧
    (∀ i : Fin 8, readAnswer (0x20 + 4 * i.val) s = some (.read s.key[i] false)) ∧
    (∀ i : Fin 4, readAnswer (0x40 + 4 * i.val) s = some (.read (s.iv.col i) false)) ∧
    (∀ j, 4 * j < bufBytes s → ∃ w : Word, readAnswer (0x10000 + 4 * j) s = some (.read w false) ∧
      ∀ k, k < 4 → byte w k = bufferByte s .inBuf (4 * j + k)) ∧
    (busy s = false →
      (∃ w : Word, readAnswer 0x10 s = some (.read w false) ∧ w.toNat = s.outLen.toNat) ∧
      (∀ i : Fin 4, readAnswer (0x50 + 4 * i.val) s = some (.read (s.block.col i) false)) ∧
      (∀ i : Fin 60, readAnswer (0x100 + 4 * i.val) s = some (.read s.rk[i] false)) ∧
      (∀ j, 4 * j < bufBytes s → ∃ w : Word, readAnswer (0x20000 + 4 * j) s = some (.read w false) ∧
        ∀ k, k < 4 → byte w k = bufferByte s .outBuf (4 * j + k)))

/-- R279, R22: while BUSY = 0, "a read right after a write returns the written value", with the reserved bits of CTRL and
IN_LEN read as 0. -/
def Obligations.ReadAfterWriteReturnsTheValue : Prop :=
  ∀ (s : State) (d : Word), busy s = false →
    readAnswer 0x00 (hostWrite 0x00000 d s) = some (.read (d &&& 0x000001FF) false) ∧
    readAnswer 0x0C (hostWrite 0x0000C d s) = some (.read (d &&& 0x0001FFFF) false) ∧
    (∀ n, n % 4 = 0 → (0x20 ≤ n ∧ n < 0x60 ∨ 0x10000 ≤ n ∧ n < 0x10000 + bufBytes s) →
      readAnswer n (hostWrite (BitVec.ofNat 18 n) d s) = some (.read d false))

/-- R74, R75: while BUSY = 0, a write to any address but CMD leaves what a read of every other address answers. -/
def Obligations.WriteLeavesOtherLocations : Prop :=
  ∀ (s : State) (a b : BitVec 18) (d : Word), busy s = false → a ≠ 0x00004 → a ≠ b →
    (hostRead b (hostWrite a d s)).response = (hostRead b s).response

/-- R26: a host write to STATUS, busy or not, clears DONE by bit 1 and WERR by bit 2, and changes nothing else. -/
def Obligations.WriteToStatusClears : Prop :=
  ∀ (s : State) (d : Word), hostWrite 0x00008 d s = { s with
    status := ⟨s.status.done && !d.getLsbD 1, s.status.werr && !d.getLsbD 2, s.status.err⟩
    response := some (.write false) }

/-- R277: while BUSY = 1, a write that passes the bus checks to any location but STATUS changes nothing and sets WERR (so no
second command can be issued); a write to STATUS takes effect normally. -/
def Obligations.WritesWhileBusyAreDropped : Prop :=
  ∀ (s : State) (a : BitVec 18) (d : Word), busy s = true → a.toNat % 4 = 0 → Mapped (bufBytes s) a.toNat →
    ¬ReadOnly a.toNat → a ≠ 0x00008 →
    hostWrite a d s = { s with
      status := ⟨s.status.done, true, s.status.err⟩, response := some (.write false) } ∧
    hostWrite 0x00008 d s = { s with
      status := ⟨s.status.done && !d.getLsbD 1, s.status.werr && !d.getLsbD 2, s.status.err⟩
      response := some (.write false) }

/-- R74, R278: a read changes nothing but the port's answer and, when it returns a free value, the counter that picks the
next one; while BUSY = 1 a read of STATE, RK or OUT_BUF returns that free value (log entry 5), OUT_LEN its low 17 bits (log
entry 6), whatever word is pending (log entry 14). -/
def Obligations.ReadsHaveNoSideEffects : Prop :=
  ∀ (s : State) (a : BitVec 18),
    hostRead a s = { s with response := (hostRead a s).response, draws := (hostRead a s).draws } ∧
    (busy s = true → a.toNat % 4 = 0 →
      (0x50 ≤ a.toNat ∧ a.toNat < 0x60 ∨ 0x100 ≤ a.toNat ∧ a.toNat < 0x1F0 ∨
        0x20000 ≤ a.toNat ∧ a.toNat < 0x20000 + bufBytes s →
        (hostRead a s).response = some (.read (Config.busyRead s.draws) false) ∧ (hostRead a s).draws = s.draws + 1) ∧
      (a.toNat = 0x10 → ∃ w : Word, (hostRead a s).response = some (.read w false) ∧
        w.toNat = (Config.busyRead s.draws).toNat % 2 ^ 17 ∧ (hostRead a s).draws = s.draws + 1))

/-- The last sentence of R42, which the spec marks as derived: through any number of host accesses while a command is
pending, "every register and buffer location the engine reads holds, at the engine step, the value it held at the
issue". -/
def Obligations.OperandsHoldUntilTheEngineStep : Prop :=
  ∀ (accesses rest : List Event) (s : State), busy s = true → (∀ e ∈ accesses, isHostAccess e = true) →
    s.agenda = accesses ++ rest →
    ∃ t, runSteps accesses.length s = .next t ∧ t.agenda = rest ∧ SameOperands s t

/-! ## Reset, invariants, completion in time, determinism -/

/-- R271: State.reset, and the state reset leaves whatever the state before it, hold the reset value of every register; no
command is pending and irq is 0. -/
def Obligations.ResetClearsEveryRegister : Prop :=
  ∀ t : State, (t = State.reset ∨ ∃ s, t = resetState s) →
    t.ctrl = ⟨0, false⟩ ∧ t.status = ⟨false, false, 0⟩ ∧ busy t = false ∧ t.pending = none ∧ t.inLen = 0 ∧
      t.outLen = 0 ∧ (∀ i : Fin 8, t.key[i] = 0) ∧ t.iv = ⟨0, 0, 0, 0⟩ ∧ t.block = ⟨0, 0, 0, 0⟩ ∧
      (∀ i : Fin 60, t.rk[i] = 0) ∧ irq t = false

/-- The reset state meets the invariant. -/
def Obligations.ResetMeetsTheInvariant : Prop := State.reset.Inv

/-- Every step keeps the invariant: both buffers stay in canonical form and within BUF_BYTES (R38, R71), ERR stays a code
the spec writes (R248), and "BUSY and DONE are never both 1" (R28). -/
def Obligations.EveryStepKeepsTheInvariant : Prop := ∀ s t : State, s.Inv → step s = .next t → t.Inv

/-- R282: a pending command that no reset abandons completes: within one step more than the agenda holds turns, a state with
BUSY = 0 and DONE = 1 is reached. The finite agenda is the model's account of fairness (log entry 1). -/
def Obligations.PendingCommandCompletesInTime : Prop :=
  ∀ s : State, busy s = true → (∀ e ∈ s.agenda, e ≠ Event.reset) →
    ∃ k t, k ≤ s.agenda.length + 1 ∧ runSteps k s = .next t ∧ busy t = false ∧ t.status.done = true

/-- R186: a command's results depend on nothing but the operands named in its rule: two states that agree on these give the
same results, whatever time it is and whatever RK, OUT_BUF, STATUS and every other register held. -/
def Obligations.ResultsDependOnlyOnOperands : Prop :=
  ∀ (i : Instr) (s s' t t' : State), SameInputs i s s' → exec i s = .next t → exec i s' = .next t' →
    SameResults i (streamLen s) t t'
end

