-- ==== Sys2Proof/Laws/Bytes.lean ====
section
/-! SUPPORT. Bytes, words, blocks and byte strings: taking apart and putting together are inverse. -/
namespace Sys2Proof.Machine

/-! ## Words -/

@[simp] theorem byte_word_0 (a b c d : Byte) : byte (word a b c d) 0 = a := by
  apply BitVec.eq_of_getLsbD_eq
  intro i hi
  simp only [byte, word, BitVec.getLsbD_extractLsb', BitVec.getLsbD_append]
  simp [hi, show ¬(24 + i < 8) by omega, show ¬(24 + i - 8 < 8) by omega, show ¬(24 + i - 8 - 8 < 8) by omega,
    show 24 + i - 8 - 8 - 8 = i by omega]

@[simp] theorem byte_word_1 (a b c d : Byte) : byte (word a b c d) 1 = b := by
  apply BitVec.eq_of_getLsbD_eq
  intro i hi
  simp only [byte, word, BitVec.getLsbD_extractLsb', BitVec.getLsbD_append]
  simp [hi, show ¬(16 + i < 8) by omega, show ¬(16 + i - 8 < 8) by omega,
    show 16 + i - 8 - 8 = i by omega]

@[simp] theorem byte_word_2 (a b c d : Byte) : byte (word a b c d) 2 = c := by
  apply BitVec.eq_of_getLsbD_eq
  intro i hi
  simp only [byte, word, BitVec.getLsbD_extractLsb', BitVec.getLsbD_append]
  simp [hi, show ¬(8 + i < 8) by omega, show 8 + i - 8 = i by omega]

@[simp] theorem byte_word_3 (a b c d : Byte) : byte (word a b c d) 3 = d := by
  apply BitVec.eq_of_getLsbD_eq
  intro i hi
  simp only [byte, word, BitVec.getLsbD_extractLsb', BitVec.getLsbD_append]
  simp [hi]

/-- A word is the word of its bytes. -/
@[simp] theorem word_byte (w : Word) : word (byte w 0) (byte w 1) (byte w 2) (byte w 3) = w := by
  apply BitVec.eq_of_getLsbD_eq
  intro i hi
  simp only [byte, word, BitVec.getLsbD_extractLsb', BitVec.getLsbD_append]
  by_cases h0 : i < 8
  · simp [h0]
  · by_cases h1 : i < 16
    · simp [h0, show i - 8 < 8 by omega, show 8 + (i - 8) = i by omega]
    · by_cases h2 : i < 24
      · simp [h0, show ¬(i - 8 < 8) by omega, show i - 8 - 8 < 8 by omega, show 16 + (i - 8 - 8) = i by omega]
      · simp [h0, show ¬(i - 8 < 8) by omega, show ¬(i - 8 - 8 < 8) by omega, show i - 8 - 8 - 8 < 8 by omega,
          show 24 + (i - 8 - 8 - 8) = i by omega]

/-- Two words with the same bytes are equal. -/
theorem word_ext {v w : Word} (h0 : byte v 0 = byte w 0) (h1 : byte v 1 = byte w 1) (h2 : byte v 2 = byte w 2)
    (h3 : byte v 3 = byte w 3) : v = w := by
  rw [← word_byte v, ← word_byte w, h0, h1, h2, h3]

@[simp] theorem byte_xor (v w : Word) (j : Nat) : byte (v ^^^ w) j = byte v j ^^^ byte w j := by
  apply BitVec.eq_of_getLsbD_eq
  intro i hi
  simp [byte, hi]

/-! ## Blocks -/

/-- R150: the matrix built from entries has those entries. -/
@[simp] theorem entry_ofEntries (f : Fin 4 → Fin 4 → Byte) (r c : Fin 4) : (Block.ofEntries f).entry r c = f r c := by
  fin_cases c <;> fin_cases r <;> simp [Block.ofEntries, Block.entry, Block.col]

/-- R150: a block is determined by its 16 entries. -/
theorem block_ext {a b : Block} (h : ∀ r c, a.entry r c = b.entry r c) : a = b := by
  obtain ⟨a0, a1, a2, a3⟩ := a
  obtain ⟨b0, b1, b2, b3⟩ := b
  have h0 : a0 = b0 := word_ext (h 0 0) (h 1 0) (h 2 0) (h 3 0)
  have h1 : a1 = b1 := word_ext (h 0 1) (h 1 1) (h 2 1) (h 3 1)
  have h2 : a2 = b2 := word_ext (h 0 2) (h 1 2) (h 2 2) (h 3 2)
  have h3 : a3 = b3 := word_ext (h 0 3) (h 1 3) (h 2 3) (h 3 3)
  rw [h0, h1, h2, h3]

@[simp] theorem ofEntries_entry (s : Block) : Block.ofEntries s.entry = s :=
  block_ext fun r c => entry_ofEntries s.entry r c

@[simp] theorem entry_xor (a b : Block) (r c : Fin 4) : (a.xor b).entry r c = a.entry r c ^^^ b.entry r c := by
  fin_cases c <;> simp [Block.xor, Block.entry, Block.col]

@[simp] theorem col_xor (a b : Block) (c : Fin 4) : (a.xor b).col c = a.col c ^^^ b.col c := by
  fin_cases c <;> rfl

@[simp] theorem xor_xor_self (a b : Block) : (a.xor b).xor b = a := by
  simp [Block.xor]

@[simp] theorem col_setCol_same (b : Block) (i : Fin 4) (w : Word) : (b.setCol i w).col i = w := by
  fin_cases i <;> rfl

theorem col_setCol_other (b : Block) {i j : Fin 4} (w : Word) (h : j ≠ i) : (b.setCol i w).col j = b.col j := by
  fin_cases i <;> fin_cases j <;> first | rfl | exact absurd rfl h

/-! ## Byte strings -/

@[simp] theorem toBytes_length (b : Block) : b.toBytes.length = 16 := rfl

@[simp] theorem bytesOf_length (bs : List Block) : (bytesOf bs).length = 16 * bs.length := by
  induction bs with
  | nil => rfl
  | cons b bs ih =>
    have h : bytesOf (b :: bs) = b.toBytes ++ bytesOf bs := rfl
    rw [h, List.length_append, ih, toBytes_length, List.length_cons]
    omega

/-- Block 0 of a byte string that begins with the bytes of `b` is `b`. -/
@[simp] theorem blockAt_toBytes_append (b : Block) (x : List Byte) : blockAt (b.toBytes ++ x) 0 = b := by
  obtain ⟨c0, c1, c2, c3⟩ := b
  simp [blockAt, wordAt, Block.toBytes, wordBytes]

theorem blockAt_append_succ (b : Block) (x : List Byte) (j : Nat) : blockAt (b.toBytes ++ x) (j + 1) = blockAt x j := by
  have h : ∀ k, (b.toBytes ++ x).getD (16 * (j + 1) + k) 0 = x.getD (16 * j + k) 0 := by
    intro k
    rw [List.getD_append_right _ _ _ _ (by rw [toBytes_length]; omega), toBytes_length]
    congr 1
    omega
  have h' := h 0
  simp only [Nat.add_zero] at h'
  simp only [blockAt, wordAt, Nat.add_assoc, h, h']

/-- Block `j` of the bytes of a list of blocks is its `j`-th block. -/
theorem blockAt_bytesOf (bs : List Block) : ∀ j, (h : j < bs.length) → blockAt (bytesOf bs) j = bs[j] := by
  induction bs with
  | nil => intro j h; simp at h
  | cons b bs ih =>
    intro j h
    have hb : bytesOf (b :: bs) = b.toBytes ++ bytesOf bs := rfl
    rw [hb]
    cases j with
    | zero => simp
    | succ j =>
      rw [blockAt_append_succ]
      exact ih j (by simpa using h)

@[simp] theorem blocksOf_bytesOf (bs : List Block) : blocksOf (bytesOf bs) = bs := by
  apply List.ext_getElem
  · simp [blocksOf]
  · intro j h1 h2
    simp only [blocksOf, List.getElem_map, List.getElem_range]
    exact blockAt_bytesOf bs j h2

@[simp] theorem blocksOf_length (x : List Byte) : (blocksOf x).length = x.length / 16 := by simp [blocksOf]

/-- Byte `i` of block `j` is byte `16 j + i` of the string. -/
theorem blockAt_toBytes_getD (x : List Byte) (j i : Nat) (hi : i < 16) :
    (blockAt x j).toBytes.getD i 0 = x.getD (16 * j + i) 0 := by
  simp only [blockAt, wordAt, Block.toBytes, wordBytes, byte_word_0, byte_word_1, byte_word_2, byte_word_3,
    Nat.add_assoc, List.cons_append, List.nil_append]
  interval_cases i <;> rfl

/-- A byte string of whole blocks is the bytes of its blocks. -/
theorem bytesOf_getD (bs : List Block) : ∀ j i, i < 16 → (h : j < bs.length) →
    (bytesOf bs).getD (16 * j + i) 0 = bs[j].toBytes.getD i 0 := by
  intro j i hi h
  rw [← blockAt_toBytes_getD _ _ _ hi, blockAt_bytesOf bs j h]

@[simp] theorem bytesOf_blocksOf (x : List Byte) (h : x.length % 16 = 0) : bytesOf (blocksOf x) = x := by
  apply List.ext_getElem
  · rw [bytesOf_length, blocksOf_length]
    omega
  · intro k h1 h2
    have hk : k = 16 * (k / 16) + k % 16 := by omega
    have hj : k / 16 < (blocksOf x).length := by rw [blocksOf_length]; omega
    have hg := bytesOf_getD (blocksOf x) (k / 16) (k % 16) (Nat.mod_lt _ (by decide)) hj
    simp only [blocksOf, List.getElem_map, List.getElem_range] at hg
    rw [blockAt_toBytes_getD _ _ _ (Nat.mod_lt _ (by decide)), ← hk] at hg
    rw [List.getD_eq_getElem _ _ h2] at hg
    rw [← hg, List.getD_eq_getElem]
    rfl

end Sys2Proof.Machine
end

