-- ==== Sys2Proof/Laws/State.lean ====
section
/-! SUPPORT. One lemma per field per state update: what each shared operation leaves in each field of State, so that no later
proof unfolds a record update. -/
namespace Sys2Proof.Machine

/-! ## storeBlock -/

@[simp] theorem storeBlock_ctrl (b : Block) (s : State) : (storeBlock b s).ctrl = s.ctrl := rfl
@[simp] theorem storeBlock_status (b : Block) (s : State) : (storeBlock b s).status = s.status := rfl
@[simp] theorem storeBlock_inLen (b : Block) (s : State) : (storeBlock b s).inLen = s.inLen := rfl
@[simp] theorem storeBlock_outLen (b : Block) (s : State) : (storeBlock b s).outLen = s.outLen := rfl
@[simp] theorem storeBlock_key (b : Block) (s : State) : (storeBlock b s).key = s.key := rfl
@[simp] theorem storeBlock_iv (b : Block) (s : State) : (storeBlock b s).iv = s.iv := rfl
@[simp] theorem storeBlock_block (b : Block) (s : State) : (storeBlock b s).block = b := rfl
@[simp] theorem storeBlock_rk (b : Block) (s : State) : (storeBlock b s).rk = s.rk := rfl
@[simp] theorem storeBlock_inBuf (b : Block) (s : State) : (storeBlock b s).inBuf = s.inBuf := rfl
@[simp] theorem storeBlock_outBuf (b : Block) (s : State) : (storeBlock b s).outBuf = s.outBuf := rfl
@[simp] theorem storeBlock_pending (b : Block) (s : State) : (storeBlock b s).pending = s.pending := rfl
@[simp] theorem storeBlock_response (b : Block) (s : State) : (storeBlock b s).response = s.response := rfl
@[simp] theorem storeBlock_bufBlocks (b : Block) (s : State) : (storeBlock b s).bufBlocks = s.bufBlocks := rfl
@[simp] theorem storeBlock_resets (b : Block) (s : State) : (storeBlock b s).resets = s.resets := rfl
@[simp] theorem storeBlock_draws (b : Block) (s : State) : (storeBlock b s).draws = s.draws := rfl
@[simp] theorem storeBlock_agenda (b : Block) (s : State) : (storeBlock b s).agenda = s.agenda := rfl

/-! ## writeRk -/

@[simp] theorem writeRk_ctrl (r : Vector Word 60) (s : State) : (writeRk r s).ctrl = s.ctrl := rfl
@[simp] theorem writeRk_status (r : Vector Word 60) (s : State) : (writeRk r s).status = s.status := rfl
@[simp] theorem writeRk_inLen (r : Vector Word 60) (s : State) : (writeRk r s).inLen = s.inLen := rfl
@[simp] theorem writeRk_outLen (r : Vector Word 60) (s : State) : (writeRk r s).outLen = s.outLen := rfl
@[simp] theorem writeRk_key (r : Vector Word 60) (s : State) : (writeRk r s).key = s.key := rfl
@[simp] theorem writeRk_iv (r : Vector Word 60) (s : State) : (writeRk r s).iv = s.iv := rfl
@[simp] theorem writeRk_block (r : Vector Word 60) (s : State) : (writeRk r s).block = s.block := rfl
@[simp] theorem writeRk_rk (r : Vector Word 60) (s : State) : (writeRk r s).rk = r := rfl
@[simp] theorem writeRk_inBuf (r : Vector Word 60) (s : State) : (writeRk r s).inBuf = s.inBuf := rfl
@[simp] theorem writeRk_outBuf (r : Vector Word 60) (s : State) : (writeRk r s).outBuf = s.outBuf := rfl
@[simp] theorem writeRk_pending (r : Vector Word 60) (s : State) : (writeRk r s).pending = s.pending := rfl
@[simp] theorem writeRk_response (r : Vector Word 60) (s : State) : (writeRk r s).response = s.response := rfl
@[simp] theorem writeRk_bufBlocks (r : Vector Word 60) (s : State) : (writeRk r s).bufBlocks = s.bufBlocks := rfl
@[simp] theorem writeRk_resets (r : Vector Word 60) (s : State) : (writeRk r s).resets = s.resets := rfl
@[simp] theorem writeRk_draws (r : Vector Word 60) (s : State) : (writeRk r s).draws = s.draws := rfl
@[simp] theorem writeRk_agenda (r : Vector Word 60) (s : State) : (writeRk r s).agenda = s.agenda := rfl

/-! ## expandInto -/

@[simp] theorem expandInto_ctrl (v : Variant) (s : State) : (expandInto v s).ctrl = s.ctrl := rfl
@[simp] theorem expandInto_status (v : Variant) (s : State) : (expandInto v s).status = s.status := rfl
@[simp] theorem expandInto_inLen (v : Variant) (s : State) : (expandInto v s).inLen = s.inLen := rfl
@[simp] theorem expandInto_outLen (v : Variant) (s : State) : (expandInto v s).outLen = s.outLen := rfl
@[simp] theorem expandInto_key (v : Variant) (s : State) : (expandInto v s).key = s.key := rfl
@[simp] theorem expandInto_iv (v : Variant) (s : State) : (expandInto v s).iv = s.iv := rfl
@[simp] theorem expandInto_block (v : Variant) (s : State) : (expandInto v s).block = s.block := rfl
@[simp] theorem expandInto_rk (v : Variant) (s : State) : (expandInto v s).rk = rkFile (keyExpansion s.key v) v := rfl
@[simp] theorem expandInto_inBuf (v : Variant) (s : State) : (expandInto v s).inBuf = s.inBuf := rfl
@[simp] theorem expandInto_outBuf (v : Variant) (s : State) : (expandInto v s).outBuf = s.outBuf := rfl
@[simp] theorem expandInto_pending (v : Variant) (s : State) : (expandInto v s).pending = s.pending := rfl
@[simp] theorem expandInto_response (v : Variant) (s : State) : (expandInto v s).response = s.response := rfl
@[simp] theorem expandInto_bufBlocks (v : Variant) (s : State) : (expandInto v s).bufBlocks = s.bufBlocks := rfl
@[simp] theorem expandInto_resets (v : Variant) (s : State) : (expandInto v s).resets = s.resets := rfl
@[simp] theorem expandInto_draws (v : Variant) (s : State) : (expandInto v s).draws = s.draws := rfl
@[simp] theorem expandInto_agenda (v : Variant) (s : State) : (expandInto v s).agenda = s.agenda := rfl

/-! ## memWrite -/

@[simp] theorem memWrite_ctrl (a : Nat) (x : List Byte) (s : State) : (memWrite a x s).ctrl = s.ctrl := rfl
@[simp] theorem memWrite_status (a : Nat) (x : List Byte) (s : State) : (memWrite a x s).status = s.status := rfl
@[simp] theorem memWrite_inLen (a : Nat) (x : List Byte) (s : State) : (memWrite a x s).inLen = s.inLen := rfl
@[simp] theorem memWrite_outLen (a : Nat) (x : List Byte) (s : State) : (memWrite a x s).outLen = s.outLen := rfl
@[simp] theorem memWrite_key (a : Nat) (x : List Byte) (s : State) : (memWrite a x s).key = s.key := rfl
@[simp] theorem memWrite_iv (a : Nat) (x : List Byte) (s : State) : (memWrite a x s).iv = s.iv := rfl
@[simp] theorem memWrite_block (a : Nat) (x : List Byte) (s : State) : (memWrite a x s).block = s.block := rfl
@[simp] theorem memWrite_rk (a : Nat) (x : List Byte) (s : State) : (memWrite a x s).rk = s.rk := rfl
@[simp] theorem memWrite_inBuf (a : Nat) (x : List Byte) (s : State) : (memWrite a x s).inBuf = s.inBuf := rfl
@[simp] theorem memWrite_outBuf (a : Nat) (x : List Byte) (s : State) : (memWrite a x s).outBuf = memPutAll a x s.outBuf := rfl
@[simp] theorem memWrite_pending (a : Nat) (x : List Byte) (s : State) : (memWrite a x s).pending = s.pending := rfl
@[simp] theorem memWrite_response (a : Nat) (x : List Byte) (s : State) : (memWrite a x s).response = s.response := rfl
@[simp] theorem memWrite_bufBlocks (a : Nat) (x : List Byte) (s : State) : (memWrite a x s).bufBlocks = s.bufBlocks := rfl
@[simp] theorem memWrite_resets (a : Nat) (x : List Byte) (s : State) : (memWrite a x s).resets = s.resets := rfl
@[simp] theorem memWrite_draws (a : Nat) (x : List Byte) (s : State) : (memWrite a x s).draws = s.draws := rfl
@[simp] theorem memWrite_agenda (a : Nat) (x : List Byte) (s : State) : (memWrite a x s).agenda = s.agenda := rfl

/-! ## setOutLen -/

@[simp] theorem setOutLen_ctrl (n : Nat) (s : State) : (setOutLen n s).ctrl = s.ctrl := rfl
@[simp] theorem setOutLen_status (n : Nat) (s : State) : (setOutLen n s).status = s.status := rfl
@[simp] theorem setOutLen_inLen (n : Nat) (s : State) : (setOutLen n s).inLen = s.inLen := rfl
@[simp] theorem setOutLen_outLen (n : Nat) (s : State) : (setOutLen n s).outLen = BitVec.ofNat 17 n := rfl
@[simp] theorem setOutLen_key (n : Nat) (s : State) : (setOutLen n s).key = s.key := rfl
@[simp] theorem setOutLen_iv (n : Nat) (s : State) : (setOutLen n s).iv = s.iv := rfl
@[simp] theorem setOutLen_block (n : Nat) (s : State) : (setOutLen n s).block = s.block := rfl
@[simp] theorem setOutLen_rk (n : Nat) (s : State) : (setOutLen n s).rk = s.rk := rfl
@[simp] theorem setOutLen_inBuf (n : Nat) (s : State) : (setOutLen n s).inBuf = s.inBuf := rfl
@[simp] theorem setOutLen_outBuf (n : Nat) (s : State) : (setOutLen n s).outBuf = s.outBuf := rfl
@[simp] theorem setOutLen_pending (n : Nat) (s : State) : (setOutLen n s).pending = s.pending := rfl
@[simp] theorem setOutLen_response (n : Nat) (s : State) : (setOutLen n s).response = s.response := rfl
@[simp] theorem setOutLen_bufBlocks (n : Nat) (s : State) : (setOutLen n s).bufBlocks = s.bufBlocks := rfl
@[simp] theorem setOutLen_resets (n : Nat) (s : State) : (setOutLen n s).resets = s.resets := rfl
@[simp] theorem setOutLen_draws (n : Nat) (s : State) : (setOutLen n s).draws = s.draws := rfl
@[simp] theorem setOutLen_agenda (n : Nat) (s : State) : (setOutLen n s).agenda = s.agenda := rfl

/-! ## complete -/

@[simp] theorem complete_ctrl (e : ErrCode) (s : State) : (complete e s).ctrl = s.ctrl := rfl
@[simp] theorem complete_status (e : ErrCode) (s : State) : (complete e s).status = statusCompleted e s.status := rfl
@[simp] theorem complete_inLen (e : ErrCode) (s : State) : (complete e s).inLen = s.inLen := rfl
@[simp] theorem complete_outLen (e : ErrCode) (s : State) : (complete e s).outLen = s.outLen := rfl
@[simp] theorem complete_key (e : ErrCode) (s : State) : (complete e s).key = s.key := rfl
@[simp] theorem complete_iv (e : ErrCode) (s : State) : (complete e s).iv = s.iv := rfl
@[simp] theorem complete_block (e : ErrCode) (s : State) : (complete e s).block = s.block := rfl
@[simp] theorem complete_rk (e : ErrCode) (s : State) : (complete e s).rk = s.rk := rfl
@[simp] theorem complete_inBuf (e : ErrCode) (s : State) : (complete e s).inBuf = s.inBuf := rfl
@[simp] theorem complete_outBuf (e : ErrCode) (s : State) : (complete e s).outBuf = s.outBuf := rfl
@[simp] theorem complete_pending (e : ErrCode) (s : State) : (complete e s).pending = none := rfl
@[simp] theorem complete_response (e : ErrCode) (s : State) : (complete e s).response = s.response := rfl
@[simp] theorem complete_bufBlocks (e : ErrCode) (s : State) : (complete e s).bufBlocks = s.bufBlocks := rfl
@[simp] theorem complete_resets (e : ErrCode) (s : State) : (complete e s).resets = s.resets := rfl
@[simp] theorem complete_draws (e : ErrCode) (s : State) : (complete e s).draws = s.draws := rfl
@[simp] theorem complete_agenda (e : ErrCode) (s : State) : (complete e s).agenda = s.agenda := rfl

/-! ## raise -/

@[simp] theorem raise_ctrl (m : Bool) (e : ErrCode) (s : State) : (raise m e s).ctrl = s.ctrl := by cases m <;> rfl
@[simp] theorem raise_status (m : Bool) (e : ErrCode) (s : State) : (raise m e s).status = statusCompleted e s.status := by cases m <;> rfl
@[simp] theorem raise_inLen (m : Bool) (e : ErrCode) (s : State) : (raise m e s).inLen = s.inLen := by cases m <;> rfl
@[simp] theorem raise_outLen (m : Bool) (e : ErrCode) (s : State) : (raise m e s).outLen = if m then 0 else s.outLen := by cases m <;> rfl
@[simp] theorem raise_key (m : Bool) (e : ErrCode) (s : State) : (raise m e s).key = s.key := by cases m <;> rfl
@[simp] theorem raise_iv (m : Bool) (e : ErrCode) (s : State) : (raise m e s).iv = s.iv := by cases m <;> rfl
@[simp] theorem raise_block (m : Bool) (e : ErrCode) (s : State) : (raise m e s).block = s.block := by cases m <;> rfl
@[simp] theorem raise_rk (m : Bool) (e : ErrCode) (s : State) : (raise m e s).rk = s.rk := by cases m <;> rfl
@[simp] theorem raise_inBuf (m : Bool) (e : ErrCode) (s : State) : (raise m e s).inBuf = s.inBuf := by cases m <;> rfl
@[simp] theorem raise_outBuf (m : Bool) (e : ErrCode) (s : State) : (raise m e s).outBuf = s.outBuf := by cases m <;> rfl
@[simp] theorem raise_pending (m : Bool) (e : ErrCode) (s : State) : (raise m e s).pending = none := by cases m <;> rfl
@[simp] theorem raise_response (m : Bool) (e : ErrCode) (s : State) : (raise m e s).response = s.response := by cases m <;> rfl
@[simp] theorem raise_bufBlocks (m : Bool) (e : ErrCode) (s : State) : (raise m e s).bufBlocks = s.bufBlocks := by cases m <;> rfl
@[simp] theorem raise_resets (m : Bool) (e : ErrCode) (s : State) : (raise m e s).resets = s.resets := by cases m <;> rfl
@[simp] theorem raise_draws (m : Bool) (e : ErrCode) (s : State) : (raise m e s).draws = s.draws := by cases m <;> rfl
@[simp] theorem raise_agenda (m : Bool) (e : ErrCode) (s : State) : (raise m e s).agenda = s.agenda := by cases m <;> rfl

/-! ## issueCommand -/

@[simp] theorem issueCommand_ctrl (c : Word) (s : State) : (issueCommand c s).ctrl = s.ctrl := rfl
@[simp] theorem issueCommand_status (c : Word) (s : State) : (issueCommand c s).status = statusIssued s.status := rfl
@[simp] theorem issueCommand_inLen (c : Word) (s : State) : (issueCommand c s).inLen = s.inLen := rfl
@[simp] theorem issueCommand_outLen (c : Word) (s : State) : (issueCommand c s).outLen = s.outLen := rfl
@[simp] theorem issueCommand_key (c : Word) (s : State) : (issueCommand c s).key = s.key := rfl
@[simp] theorem issueCommand_iv (c : Word) (s : State) : (issueCommand c s).iv = s.iv := rfl
@[simp] theorem issueCommand_block (c : Word) (s : State) : (issueCommand c s).block = s.block := rfl
@[simp] theorem issueCommand_rk (c : Word) (s : State) : (issueCommand c s).rk = s.rk := rfl
@[simp] theorem issueCommand_inBuf (c : Word) (s : State) : (issueCommand c s).inBuf = s.inBuf := rfl
@[simp] theorem issueCommand_outBuf (c : Word) (s : State) : (issueCommand c s).outBuf = s.outBuf := rfl
@[simp] theorem issueCommand_pending (c : Word) (s : State) : (issueCommand c s).pending = some c := rfl
@[simp] theorem issueCommand_response (c : Word) (s : State) : (issueCommand c s).response = s.response := rfl
@[simp] theorem issueCommand_bufBlocks (c : Word) (s : State) : (issueCommand c s).bufBlocks = s.bufBlocks := rfl
@[simp] theorem issueCommand_resets (c : Word) (s : State) : (issueCommand c s).resets = s.resets := rfl
@[simp] theorem issueCommand_draws (c : Word) (s : State) : (issueCommand c s).draws = s.draws := rfl
@[simp] theorem issueCommand_agenda (c : Word) (s : State) : (issueCommand c s).agenda = s.agenda := rfl

/-! ## statusWrite -/

@[simp] theorem statusWrite_ctrl (d : Word) (s : State) : (statusWrite d s).ctrl = s.ctrl := rfl
@[simp] theorem statusWrite_status (d : Word) (s : State) : (statusWrite d s).status = statusClear d s.status := rfl
@[simp] theorem statusWrite_inLen (d : Word) (s : State) : (statusWrite d s).inLen = s.inLen := rfl
@[simp] theorem statusWrite_outLen (d : Word) (s : State) : (statusWrite d s).outLen = s.outLen := rfl
@[simp] theorem statusWrite_key (d : Word) (s : State) : (statusWrite d s).key = s.key := rfl
@[simp] theorem statusWrite_iv (d : Word) (s : State) : (statusWrite d s).iv = s.iv := rfl
@[simp] theorem statusWrite_block (d : Word) (s : State) : (statusWrite d s).block = s.block := rfl
@[simp] theorem statusWrite_rk (d : Word) (s : State) : (statusWrite d s).rk = s.rk := rfl
@[simp] theorem statusWrite_inBuf (d : Word) (s : State) : (statusWrite d s).inBuf = s.inBuf := rfl
@[simp] theorem statusWrite_outBuf (d : Word) (s : State) : (statusWrite d s).outBuf = s.outBuf := rfl
@[simp] theorem statusWrite_pending (d : Word) (s : State) : (statusWrite d s).pending = s.pending := rfl
@[simp] theorem statusWrite_response (d : Word) (s : State) : (statusWrite d s).response = s.response := rfl
@[simp] theorem statusWrite_bufBlocks (d : Word) (s : State) : (statusWrite d s).bufBlocks = s.bufBlocks := rfl
@[simp] theorem statusWrite_resets (d : Word) (s : State) : (statusWrite d s).resets = s.resets := rfl
@[simp] theorem statusWrite_draws (d : Word) (s : State) : (statusWrite d s).draws = s.draws := rfl
@[simp] theorem statusWrite_agenda (d : Word) (s : State) : (statusWrite d s).agenda = s.agenda := rfl

/-! ## dropWrite -/

@[simp] theorem dropWrite_ctrl (s : State) : (dropWrite s).ctrl = s.ctrl := rfl
@[simp] theorem dropWrite_status (s : State) : (dropWrite s).status = statusDropped s.status := rfl
@[simp] theorem dropWrite_inLen (s : State) : (dropWrite s).inLen = s.inLen := rfl
@[simp] theorem dropWrite_outLen (s : State) : (dropWrite s).outLen = s.outLen := rfl
@[simp] theorem dropWrite_key (s : State) : (dropWrite s).key = s.key := rfl
@[simp] theorem dropWrite_iv (s : State) : (dropWrite s).iv = s.iv := rfl
@[simp] theorem dropWrite_block (s : State) : (dropWrite s).block = s.block := rfl
@[simp] theorem dropWrite_rk (s : State) : (dropWrite s).rk = s.rk := rfl
@[simp] theorem dropWrite_inBuf (s : State) : (dropWrite s).inBuf = s.inBuf := rfl
@[simp] theorem dropWrite_outBuf (s : State) : (dropWrite s).outBuf = s.outBuf := rfl
@[simp] theorem dropWrite_pending (s : State) : (dropWrite s).pending = s.pending := rfl
@[simp] theorem dropWrite_response (s : State) : (dropWrite s).response = s.response := rfl
@[simp] theorem dropWrite_bufBlocks (s : State) : (dropWrite s).bufBlocks = s.bufBlocks := rfl
@[simp] theorem dropWrite_resets (s : State) : (dropWrite s).resets = s.resets := rfl
@[simp] theorem dropWrite_draws (s : State) : (dropWrite s).draws = s.draws := rfl
@[simp] theorem dropWrite_agenda (s : State) : (dropWrite s).agenda = s.agenda := rfl

/-! ## respond -/

@[simp] theorem respond_ctrl (r : BusResponse) (s : State) : (respond r s).ctrl = s.ctrl := rfl
@[simp] theorem respond_status (r : BusResponse) (s : State) : (respond r s).status = s.status := rfl
@[simp] theorem respond_inLen (r : BusResponse) (s : State) : (respond r s).inLen = s.inLen := rfl
@[simp] theorem respond_outLen (r : BusResponse) (s : State) : (respond r s).outLen = s.outLen := rfl
@[simp] theorem respond_key (r : BusResponse) (s : State) : (respond r s).key = s.key := rfl
@[simp] theorem respond_iv (r : BusResponse) (s : State) : (respond r s).iv = s.iv := rfl
@[simp] theorem respond_block (r : BusResponse) (s : State) : (respond r s).block = s.block := rfl
@[simp] theorem respond_rk (r : BusResponse) (s : State) : (respond r s).rk = s.rk := rfl
@[simp] theorem respond_inBuf (r : BusResponse) (s : State) : (respond r s).inBuf = s.inBuf := rfl
@[simp] theorem respond_outBuf (r : BusResponse) (s : State) : (respond r s).outBuf = s.outBuf := rfl
@[simp] theorem respond_pending (r : BusResponse) (s : State) : (respond r s).pending = s.pending := rfl
@[simp] theorem respond_response (r : BusResponse) (s : State) : (respond r s).response = some r := rfl
@[simp] theorem respond_bufBlocks (r : BusResponse) (s : State) : (respond r s).bufBlocks = s.bufBlocks := rfl
@[simp] theorem respond_resets (r : BusResponse) (s : State) : (respond r s).resets = s.resets := rfl
@[simp] theorem respond_draws (r : BusResponse) (s : State) : (respond r s).draws = s.draws := rfl
@[simp] theorem respond_agenda (r : BusResponse) (s : State) : (respond r s).agenda = s.agenda := rfl

/-! ## Derived readings under the updates -/

@[simp] theorem storeBlock_bufBytes (b : Block) (s : State) : bufBytes (storeBlock b s) = bufBytes s := rfl
@[simp] theorem storeBlock_streamLen (b : Block) (s : State) : streamLen (storeBlock b s) = streamLen s := rfl
@[simp] theorem storeBlock_selectedVariant (b : Block) (s : State) : selectedVariant (storeBlock b s) = selectedVariant s := rfl
@[simp] theorem storeBlock_busy (b : Block) (s : State) : busy (storeBlock b s) = busy s := rfl
@[simp] theorem writeRk_bufBytes (r : Vector Word 60) (s : State) : bufBytes (writeRk r s) = bufBytes s := rfl
@[simp] theorem writeRk_streamLen (r : Vector Word 60) (s : State) : streamLen (writeRk r s) = streamLen s := rfl
@[simp] theorem writeRk_selectedVariant (r : Vector Word 60) (s : State) : selectedVariant (writeRk r s) = selectedVariant s := rfl
@[simp] theorem writeRk_busy (r : Vector Word 60) (s : State) : busy (writeRk r s) = busy s := rfl
@[simp] theorem expandInto_bufBytes (v : Variant) (s : State) : bufBytes (expandInto v s) = bufBytes s := rfl
@[simp] theorem expandInto_streamLen (v : Variant) (s : State) : streamLen (expandInto v s) = streamLen s := rfl
@[simp] theorem expandInto_selectedVariant (v : Variant) (s : State) : selectedVariant (expandInto v s) = selectedVariant s := rfl
@[simp] theorem expandInto_busy (v : Variant) (s : State) : busy (expandInto v s) = busy s := rfl
@[simp] theorem memWrite_bufBytes (a : Nat) (x : List Byte) (s : State) : bufBytes (memWrite a x s) = bufBytes s := rfl
@[simp] theorem memWrite_streamLen (a : Nat) (x : List Byte) (s : State) : streamLen (memWrite a x s) = streamLen s := rfl
@[simp] theorem memWrite_selectedVariant (a : Nat) (x : List Byte) (s : State) : selectedVariant (memWrite a x s) = selectedVariant s := rfl
@[simp] theorem memWrite_busy (a : Nat) (x : List Byte) (s : State) : busy (memWrite a x s) = busy s := rfl
@[simp] theorem setOutLen_bufBytes (n : Nat) (s : State) : bufBytes (setOutLen n s) = bufBytes s := rfl
@[simp] theorem setOutLen_streamLen (n : Nat) (s : State) : streamLen (setOutLen n s) = streamLen s := rfl
@[simp] theorem setOutLen_selectedVariant (n : Nat) (s : State) : selectedVariant (setOutLen n s) = selectedVariant s := rfl
@[simp] theorem setOutLen_busy (n : Nat) (s : State) : busy (setOutLen n s) = busy s := rfl
@[simp] theorem complete_bufBytes (e : ErrCode) (s : State) : bufBytes (complete e s) = bufBytes s := rfl
@[simp] theorem complete_streamLen (e : ErrCode) (s : State) : streamLen (complete e s) = streamLen s := rfl
@[simp] theorem complete_selectedVariant (e : ErrCode) (s : State) : selectedVariant (complete e s) = selectedVariant s := rfl
@[simp] theorem complete_busy (e : ErrCode) (s : State) : busy (complete e s) = false := rfl
@[simp] theorem raise_bufBytes (m : Bool) (e : ErrCode) (s : State) : bufBytes (raise m e s) = bufBytes s := by cases m <;> rfl
@[simp] theorem raise_streamLen (m : Bool) (e : ErrCode) (s : State) : streamLen (raise m e s) = streamLen s := by cases m <;> rfl
@[simp] theorem raise_selectedVariant (m : Bool) (e : ErrCode) (s : State) : selectedVariant (raise m e s) = selectedVariant s := by cases m <;> rfl
@[simp] theorem raise_busy (m : Bool) (e : ErrCode) (s : State) : busy (raise m e s) = false := by cases m <;> rfl
@[simp] theorem issueCommand_bufBytes (c : Word) (s : State) : bufBytes (issueCommand c s) = bufBytes s := rfl
@[simp] theorem issueCommand_streamLen (c : Word) (s : State) : streamLen (issueCommand c s) = streamLen s := rfl
@[simp] theorem issueCommand_selectedVariant (c : Word) (s : State) : selectedVariant (issueCommand c s) = selectedVariant s := rfl
@[simp] theorem issueCommand_busy (c : Word) (s : State) : busy (issueCommand c s) = true := rfl
@[simp] theorem statusWrite_bufBytes (d : Word) (s : State) : bufBytes (statusWrite d s) = bufBytes s := rfl
@[simp] theorem statusWrite_streamLen (d : Word) (s : State) : streamLen (statusWrite d s) = streamLen s := rfl
@[simp] theorem statusWrite_selectedVariant (d : Word) (s : State) : selectedVariant (statusWrite d s) = selectedVariant s := rfl
@[simp] theorem statusWrite_busy (d : Word) (s : State) : busy (statusWrite d s) = busy s := rfl
@[simp] theorem dropWrite_bufBytes (s : State) : bufBytes (dropWrite s) = bufBytes s := rfl
@[simp] theorem dropWrite_streamLen (s : State) : streamLen (dropWrite s) = streamLen s := rfl
@[simp] theorem dropWrite_selectedVariant (s : State) : selectedVariant (dropWrite s) = selectedVariant s := rfl
@[simp] theorem dropWrite_busy (s : State) : busy (dropWrite s) = busy s := rfl
@[simp] theorem respond_bufBytes (r : BusResponse) (s : State) : bufBytes (respond r s) = bufBytes s := rfl
@[simp] theorem respond_streamLen (r : BusResponse) (s : State) : streamLen (respond r s) = streamLen s := rfl
@[simp] theorem respond_selectedVariant (r : BusResponse) (s : State) : selectedVariant (respond r s) = selectedVariant s := rfl
@[simp] theorem respond_busy (r : BusResponse) (s : State) : busy (respond r s) = busy s := rfl

/-! ## Buffer bytes under the updates -/

@[simp] theorem storeBlock_bufferByte (b : Block) (s : State) (i : BufferId) (k : Nat) : bufferByte (storeBlock b s) i k = bufferByte s i k := rfl
@[simp] theorem writeRk_bufferByte (r : Vector Word 60) (s : State) (i : BufferId) (k : Nat) : bufferByte (writeRk r s) i k = bufferByte s i k := rfl
@[simp] theorem expandInto_bufferByte (v : Variant) (s : State) (i : BufferId) (k : Nat) : bufferByte (expandInto v s) i k = bufferByte s i k := rfl
@[simp] theorem memWrite_inByte (a : Nat) (x : List Byte) (s : State) (k : Nat) : bufferByte (memWrite a x s) .inBuf k = bufferByte s .inBuf k := rfl
@[simp] theorem setOutLen_bufferByte (n : Nat) (s : State) (i : BufferId) (k : Nat) : bufferByte (setOutLen n s) i k = bufferByte s i k := rfl
@[simp] theorem complete_bufferByte (e : ErrCode) (s : State) (i : BufferId) (k : Nat) : bufferByte (complete e s) i k = bufferByte s i k := rfl
@[simp] theorem raise_bufferByte (m : Bool) (e : ErrCode) (s : State) (i : BufferId) (k : Nat) : bufferByte (raise m e s) i k = bufferByte s i k := by cases m <;> rfl
@[simp] theorem issueCommand_bufferByte (c : Word) (s : State) (i : BufferId) (k : Nat) : bufferByte (issueCommand c s) i k = bufferByte s i k := rfl
@[simp] theorem statusWrite_bufferByte (d : Word) (s : State) (i : BufferId) (k : Nat) : bufferByte (statusWrite d s) i k = bufferByte s i k := rfl
@[simp] theorem dropWrite_bufferByte (s : State) (i : BufferId) (k : Nat) : bufferByte (dropWrite s) i k = bufferByte s i k := rfl
@[simp] theorem respond_bufferByte (r : BusResponse) (s : State) (i : BufferId) (k : Nat) : bufferByte (respond r s) i k = bufferByte s i k := rfl

/-! ## The status updates, field by field -/

@[simp] theorem statusCompleted_done (e : ErrCode) (t : Status) : (statusCompleted e t).done = true := rfl
@[simp] theorem statusCompleted_werr (e : ErrCode) (t : Status) : (statusCompleted e t).werr = t.werr := rfl
@[simp] theorem statusCompleted_err (e : ErrCode) (t : Status) : (statusCompleted e t).err = errBits e := rfl
@[simp] theorem statusIssued_done (t : Status) : (statusIssued t).done = false := rfl
@[simp] theorem statusIssued_werr (t : Status) : (statusIssued t).werr = t.werr := rfl
@[simp] theorem statusIssued_err (t : Status) : (statusIssued t).err = 0 := rfl
@[simp] theorem statusClear_done (d : Word) (t : Status) : (statusClear d t).done = (t.done && !d.getLsbD 1) := rfl
@[simp] theorem statusClear_werr (d : Word) (t : Status) : (statusClear d t).werr = (t.werr && !d.getLsbD 2) := rfl
@[simp] theorem statusClear_err (d : Word) (t : Status) : (statusClear d t).err = t.err := rfl
@[simp] theorem statusDropped_done (t : Status) : (statusDropped t).done = t.done := rfl
@[simp] theorem statusDropped_werr (t : Status) : (statusDropped t).werr = true := rfl
@[simp] theorem statusDropped_err (t : Status) : (statusDropped t).err = t.err := rfl

end Sys2Proof.Machine
end

