-- ==== Sys2Proof/Laws/Memory.lean ====
section
/-! SUPPORT. The buffers as sorted lists of written bytes: every operation keeps the canonical form, a read after a write gives
the written byte, and a write leaves every other offset alone. -/
namespace Sys2Proof.Machine

/-! ## One byte -/

theorem memGet_memPut (m : Memory) (a b : Nat) (v : Byte) :
    memGet (memPut a v m) b = if b = a then some v else memGet m b := by
  induction m with
  | nil => simp only [memPut, memGet]
  | cons p rest ih =>
    obtain ⟨k, x⟩ := p
    by_cases hlt : a < k
    · simp only [memPut, hlt, if_true, memGet]
    · by_cases heq : a = k
      · subst heq
        simp only [memPut, lt_irrefl, if_false, if_true, memGet]
        split <;> rfl
      · simp only [memPut, hlt, heq, if_false, memGet, ih]
        by_cases hbk : b = k
        · have : b ≠ a := by omega
          simp [hbk, Ne.symm heq]
        · simp [hbk]

/-- A write adds no offset but its own. -/
theorem mem_memPut {m : Memory} {a : Nat} {v : Byte} {p : Host.Cell} (h : p ∈ memPut a v m) : p = (a, v) ∨ p ∈ m := by
  induction m with
  | nil => simpa [memPut] using h
  | cons q rest ih =>
    obtain ⟨k, x⟩ := q
    by_cases hlt : a < k
    · simpa [memPut, hlt] using h
    · by_cases heq : a = k
      · subst heq
        simp only [memPut, lt_irrefl, if_false, if_true, List.mem_cons] at h
        rcases h with h | h
        · exact .inl h
        · exact .inr (by simp [h])
      · simp only [memPut, hlt, heq, if_false, List.mem_cons] at h
        rcases h with h | h
        · exact .inr (by simp [h])
        · rcases ih h with h | h
          · exact .inl h
          · exact .inr (by simp [h])

theorem memPut_wf {m : Memory} (a : Nat) (v : Byte) (h : Memory.wf m) : Memory.wf (memPut a v m) := by
  induction m with
  | nil => simp [memPut]
  | cons q rest ih =>
    obtain ⟨k, x⟩ := q
    obtain ⟨hk, hrest⟩ := List.pairwise_cons.mp h
    by_cases hlt : a < k
    · simp only [memPut, hlt, if_true]
      refine List.pairwise_cons.mpr ⟨fun p hp => ?_, h⟩
      rcases List.mem_cons.mp hp with rfl | hp
      · exact hlt
      · exact lt_trans hlt (hk p hp)
    · by_cases heq : a = k
      · subst heq
        simp only [memPut, lt_irrefl, if_false, if_true]
        exact List.pairwise_cons.mpr ⟨fun p hp => hk p hp, hrest⟩
      · simp only [memPut, hlt, heq, if_false]
        refine List.pairwise_cons.mpr ⟨fun p hp => ?_, ih hrest⟩
        rcases mem_memPut hp with rfl | hp
        · show k < a
          omega
        · exact hk p hp

theorem memPut_bounded {m : Memory} {a n : Nat} {v : Byte} (ha : a < n) (h : ∀ p ∈ m, p.1 < n) :
    ∀ p ∈ memPut a v m, p.1 < n := by
  intro p hp
  rcases mem_memPut hp with rfl | hp
  · exact ha
  · exact h p hp

/-! ## A byte string -/

theorem memPutAll_wf (x : List Byte) : ∀ (m : Memory) (a : Nat), Memory.wf m → Memory.wf (memPutAll a x m) := by
  induction x with
  | nil => exact fun _ _ h => h
  | cons v vs ih => exact fun m a h => ih _ _ (memPut_wf a v h)

theorem memPutAll_bounded (x : List Byte) {n : Nat} : ∀ (m : Memory) (a : Nat), a + x.length ≤ n →
    (∀ p ∈ m, p.1 < n) → ∀ p ∈ memPutAll a x m, p.1 < n := by
  induction x with
  | nil => exact fun _ _ _ h => h
  | cons v vs ih =>
    intro m a hn h
    have hlen : (v :: vs).length = vs.length + 1 := rfl
    exact ih _ _ (by omega) (memPut_bounded (by omega) h)

/-- Read after write: inside the written range the written byte, outside it what was there. -/
theorem memGet_memPutAll (x : List Byte) : ∀ (m : Memory) (a b : Nat),
    memGet (memPutAll a x m) b = if a ≤ b ∧ b < a + x.length then x[b - a]? else memGet m b := by
  induction x with
  | nil => intro m a b; simp [memPutAll]
  | cons v vs ih =>
    intro m a b
    have hlen : (v :: vs).length = vs.length + 1 := rfl
    rw [memPutAll, ih, memGet_memPut, hlen]
    by_cases hba : b = a
    · subst hba
      simp
    · by_cases hin : a + 1 ≤ b ∧ b < a + 1 + vs.length
      · have h2 : a ≤ b ∧ b < a + (vs.length + 1) := by omega
        have h3 : b - a = (b - (a + 1)) + 1 := by omega
        simp only [hin, h2, and_self, if_true]
        rw [h3]
        rfl
      · have h2 : ¬(a ≤ b ∧ b < a + (vs.length + 1)) := by omega
        simp only [hin, h2, if_false, hba]

/-- R73: after MemWrite of `x` at `a`, OUT_BUF reads `x` in the written range and as before outside it. -/
theorem memWrite_outByte (a b : Nat) (x : List Byte) (s : State) :
    bufferByte (memWrite a x s) .outBuf b =
      if a ≤ b ∧ b < a + x.length then x.getD (b - a) 0 else bufferByte s .outBuf b := by
  simp only [bufferByte, memWrite_outBuf, memGet_memPutAll, memWrite_resets]
  by_cases h : a ≤ b ∧ b < a + x.length
  · have hb : b - a < x.length := by omega
    simp [h, hb]
  · simp [h]

theorem memRead_length (s : State) (a n : Nat) : (memRead s a n).length = n := by simp [memRead]

/-- R72: byte `k` of MemRead(addr, n) is IN_BUF[addr + k]. -/
theorem memRead_getD {s : State} {a n k : Nat} (h : k < n) : (memRead s a n).getD k 0 = bufferByte s .inBuf (a + k) := by
  simp [memRead, h]

end Sys2Proof.Machine
end

