-- ==== Sys2Proof/Laws/Exec.lean ====
section
/-! SUPPORT. What the shared operations and the commands can do, each said once: the variant a key length selects, the checks
of the mode commands, the shapes a command's next state can have, and the shapes of a host access and of a step. -/
namespace Sys2Proof.Machine

/-! ## The variant (R130) -/

theorem selectedVariant_eq_some {s : State} {v : Variant} : selectedVariant s = some v ↔ s.ctrl.keylen.toNat = 4 * nkOf v := by
  unfold selectedVariant variantOf
  generalize s.ctrl.keylen = k
  have h16 : k = 16 ↔ k.toNat = 16 := by rw [← BitVec.toNat_inj]; rfl
  have h24 : k = 24 ↔ k.toNat = 24 := by rw [← BitVec.toNat_inj]; rfl
  have h32 : k = 32 ↔ k.toNat = 32 := by rw [← BitVec.toNat_inj]; rfl
  simp only [h16, h24, h32]
  cases v <;> simp only [nkOf] <;> split_ifs <;> simp <;> omega

theorem selectedVariant_eq_none {s : State} :
    selectedVariant s = none ↔ s.ctrl.keylen ≠ 16 ∧ s.ctrl.keylen ≠ 24 ∧ s.ctrl.keylen ≠ 32 := by
  unfold selectedVariant variantOf
  split_ifs <;> simp_all

/-- R135, word by word. -/
theorem rkFile_getElem (w : List Word) (v : Variant) (i : Fin 60) :
    (rkFile w v)[i] = if i.val < 4 * (nrOf v + 1) then w.getD i.val 0 else 0 := by
  unfold rkFile
  simp [scheduleWords]

/-! ## The checks of the mode commands (R249) -/

theorem bufBytes_pos (s : State) : 16 ≤ bufBytes s := by unfold bufBytes; omega

theorem bufBytes_le (s : State) : bufBytes s ≤ 65536 := by
  have := s.bufBlocks.isLt
  unfold bufBytes
  omega

theorem bufBytes_mod (s : State) : bufBytes s % 16 = 0 := by unfold bufBytes; omega

/-- R203: `n <= BUF_BYTES` exactly when `L < BUF_BYTES`. -/
theorem paddedLen_le_bufBytes (s : State) (n : Nat) : paddedLen n ≤ bufBytes s ↔ n < bufBytes s := by
  have := bufBytes_mod s
  unfold paddedLen
  omega

theorem encryptCheck_eq (s : State) :
    encryptCheck s = match selectedVariant s with
      | none => .error .invalidKeyLength
      | some v => if streamLen s < bufBytes s then .ok v else .error .length := by
  unfold encryptCheck
  cases selectedVariant s with
  | none => rfl
  | some v =>
    have h := paddedLen_le_bufBytes s (streamLen s)
    by_cases hl : streamLen s < bufBytes s
    · have := h.mpr hl
      simp [hl, show ¬(bufBytes s < streamLen s) by omega, show ¬(bufBytes s < paddedLen (streamLen s)) by omega]
    · have : ¬(paddedLen (streamLen s) ≤ bufBytes s) := fun hp => hl (h.mp hp)
      simp [hl, show bufBytes s < paddedLen (streamLen s) by omega]

theorem encryptCheck_of_fits {s : State} {v : Variant} (hv : selectedVariant s = some v) (hl : streamLen s < bufBytes s) :
    encryptCheck s = .ok v := by
  rw [encryptCheck_eq, hv]
  simp [hl]

theorem decryptCheck_of_fits {s : State} {v : Variant} (hv : selectedVariant s = some v) (hl : streamLen s ≤ bufBytes s)
    (ha : streamLen s % 16 = 0) : decryptCheck s = .ok v := by
  unfold decryptCheck
  rw [hv]
  simp [show ¬(bufBytes s < streamLen s) by omega, ha]

/-- An encrypt command that passes its checks has a stream whose padded form fits. -/
theorem encryptCheck_ok {s : State} {v : Variant} (h : encryptCheck s = .ok v) :
    selectedVariant s = some v ∧ streamLen s < bufBytes s := by
  rw [encryptCheck_eq] at h
  cases hv : selectedVariant s with
  | none => simp [hv] at h
  | some v' =>
    simp only [hv] at h
    split_ifs at h with hl
    simp only [Except.ok.injEq] at h
    exact ⟨by rw [h], hl⟩

/-- A decrypt command that passes its checks has a fitting stream of whole blocks. -/
theorem decryptCheck_ok {s : State} {v : Variant} (h : decryptCheck s = .ok v) :
    selectedVariant s = some v ∧ streamLen s ≤ bufBytes s ∧ streamLen s % 16 = 0 := by
  unfold decryptCheck at h
  cases hv : selectedVariant s with
  | none => simp [hv] at h
  | some v' =>
    simp only [hv] at h
    split_ifs at h with hl ha
    simp only [Except.ok.injEq] at h
    exact ⟨by rw [h], by omega, by omega⟩

/-! ## Lengths of the streams (R200, R208) -/

theorem pad_length (m : List Byte) : (pad m).length = paddedLen m.length := by
  unfold pad paddedLen padLen
  rw [List.length_append, List.length_replicate]
  split_ifs <;> omega

@[simp] theorem streamBytes_length (s : State) : (streamBytes s).length = streamLen s := memRead_length s 0 _

theorem cbcEncrypt_length (f : Block → Block) (ps : List Block) : ∀ iv, (cbcEncrypt f iv ps).length = ps.length := by
  induction ps with
  | nil => intro iv; rfl
  | cons p ps ih => intro iv; simp [cbcEncrypt, ih]

theorem cbcDecrypt_length (f : Block → Block) (cs : List Block) : ∀ iv, (cbcDecrypt f iv cs).length = cs.length := by
  induction cs with
  | nil => intro iv; rfl
  | cons c cs ih => intro iv; simp [cbcDecrypt, ih]

/-- A mode that keeps the number of blocks gives a ciphertext of the padded length. -/
theorem encryptBytes_length {mode : List Block → List Block} (hm : ∀ bs, (mode bs).length = bs.length) (s : State) :
    (encryptBytes mode s).length = paddedLen (streamLen s) := by
  rw [encryptBytes, bytesOf_length, hm, blocksOf_length, pad_length, streamBytes_length]
  unfold paddedLen
  omega

theorem decryptBytes_length {mode : List Block → List Block} (hm : ∀ bs, (mode bs).length = bs.length) {s : State}
    (ha : streamLen s % 16 = 0) : (decryptBytes mode s).length = streamLen s := by
  rw [decryptBytes, bytesOf_length, hm, blocksOf_length, streamBytes_length]
  omega

theorem ecbEncBlocks_length (v : Variant) (s : State) (bs : List Block) : (ecbEncBlocks v s bs).length = bs.length := by
  simp [ecbEncBlocks]

theorem ecbDecBlocks_length (v : Variant) (s : State) (bs : List Block) : (ecbDecBlocks v s bs).length = bs.length := by
  simp [ecbDecBlocks]

theorem cbcEncBlocks_length (v : Variant) (s : State) (bs : List Block) : (cbcEncBlocks v s bs).length = bs.length := by
  simp [cbcEncBlocks, cbcEncrypt_length]

theorem cbcDecBlocks_length (v : Variant) (s : State) (bs : List Block) : (cbcDecBlocks v s bs).length = bs.length := by
  simp [cbcDecBlocks, cbcDecrypt_length]

/-! ## The shapes of a command's next state -/

/-- Everything an engine step can leave, in the terms of the shared operations (R251-R253). -/
inductive CommandShape (s : State) : State → Prop where
  /-- an error found before any work (R253) -/
  | failed (isMode : Bool) (code : ErrCode) (hc : code ≠ .none) : CommandShape s (raise isMode code s)
  /-- a primitive command (R158-R163) -/
  | primitive (b : Block) : CommandShape s (complete .none (storeBlock b s))
  /-- EXPAND_KEY (R137) -/
  | expanded (v : Variant) (hv : selectedVariant s = some v) : CommandShape s (complete .none (expandInto v s))
  /-- ENC_BLOCK, DEC_BLOCK, ADD_ROUND_KEY (R183, R184, R164) -/
  | keyed (v : Variant) (b : Block) (hv : selectedVariant s = some v) :
    CommandShape s (complete .none (storeBlock b (expandInto v s)))
  /-- a mode command that succeeds (R208) -/
  | wrote (v : Variant) (n : Nat) (x : List Byte) (hv : selectedVariant s = some v) (hx : x.length ≤ bufBytes s) :
    CommandShape s (complete .none (setOutLen n (memWrite 0 x (expandInto v s))))
  /-- a padding failure (R209) -/
  | badPadding (v : Variant) (x : List Byte) (hv : selectedVariant s = some v) (hx : x.length ≤ bufBytes s) :
    CommandShape s (raise true .invalidPadding (memWrite 0 x (expandInto v s)))

theorem encryptCheck_error {s : State} {e : ErrCode} (h : encryptCheck s = .error e) : e ≠ .none := by
  rw [encryptCheck_eq] at h
  cases hv : selectedVariant s with
  | none =>
    simp only [hv, Except.error.injEq] at h
    simp [← h]
  | some v =>
    simp only [hv] at h
    split_ifs at h
    simp only [Except.error.injEq] at h
    simp [← h]

theorem decryptCheck_error {s : State} {e : ErrCode} (h : decryptCheck s = .error e) : e ≠ .none := by
  unfold decryptCheck at h
  cases hv : selectedVariant s with
  | none =>
    simp only [hv, Except.error.injEq] at h
    simp [← h]
  | some v =>
    simp only [hv] at h
    split_ifs at h <;> (simp only [Except.error.injEq] at h; simp [← h])

theorem finishDecrypt_shape {s : State} {v : Variant} {q : List Byte} (hv : selectedVariant s = some v)
    (hq : q.length ≤ bufBytes s) (hl : streamLen s ≤ bufBytes s) : CommandShape s (finishDecrypt q (expandInto v s)) := by
  unfold finishDecrypt
  split
  · exact .wrote v _ q hv hq
  · exact .badPadding v _ hv (by simpa using hl)

/-- Every command's step has one of these shapes; no command faults or is refused. -/
theorem exec_shape (i : Instr) (s : State) : ∃ t, exec i s = .next t ∧ CommandShape s t := by
  cases i with
  | expandKey =>
    simp only [exec, execExpandKey]
    cases hv : selectedVariant s with
    | none => exact ⟨_, rfl, .failed _ _ (by decide)⟩
    | some v => exact ⟨_, rfl, .expanded v hv⟩
  | encBlock =>
    simp only [exec, execEncBlock]
    cases hv : selectedVariant s with
    | none => exact ⟨_, rfl, .failed _ _ (by decide)⟩
    | some v => exact ⟨_, rfl, .keyed v _ hv⟩
  | decBlock =>
    simp only [exec, execDecBlock]
    cases hv : selectedVariant s with
    | none => exact ⟨_, rfl, .failed _ _ (by decide)⟩
    | some v => exact ⟨_, rfl, .keyed v _ hv⟩
  | ecbEnc =>
    simp only [exec, execEcbEnc]
    cases hc : encryptCheck s with
    | error e => exact ⟨_, rfl, .failed _ _ (encryptCheck_error hc)⟩
    | ok v =>
      obtain ⟨hv, hl⟩ := encryptCheck_ok hc
      refine ⟨_, rfl, .wrote v _ _ hv ?_⟩
      rw [encryptBytes_length (ecbEncBlocks_length v s)]
      exact (paddedLen_le_bufBytes s _).mpr hl
  | cbcEnc =>
    simp only [exec, execCbcEnc]
    cases hc : encryptCheck s with
    | error e => exact ⟨_, rfl, .failed _ _ (encryptCheck_error hc)⟩
    | ok v =>
      obtain ⟨hv, hl⟩ := encryptCheck_ok hc
      refine ⟨_, rfl, .wrote v _ _ hv ?_⟩
      rw [encryptBytes_length (cbcEncBlocks_length v s)]
      exact (paddedLen_le_bufBytes s _).mpr hl
  | ecbDec =>
    simp only [exec, execEcbDec]
    cases hc : decryptCheck s with
    | error e => exact ⟨_, rfl, .failed _ _ (decryptCheck_error hc)⟩
    | ok v =>
      obtain ⟨hv, hl, ha⟩ := decryptCheck_ok hc
      exact ⟨_, rfl, finishDecrypt_shape hv (by rw [decryptBytes_length (ecbDecBlocks_length v s) ha]; exact hl) hl⟩
  | cbcDec =>
    simp only [exec, execCbcDec]
    cases hc : decryptCheck s with
    | error e => exact ⟨_, rfl, .failed _ _ (decryptCheck_error hc)⟩
    | ok v =>
      obtain ⟨hv, hl, ha⟩ := decryptCheck_ok hc
      exact ⟨_, rfl, finishDecrypt_shape hv (by rw [decryptBytes_length (cbcDecBlocks_length v s) ha]; exact hl) hl⟩
  | subBytes => exact ⟨_, rfl, .primitive _⟩
  | invSubBytes => exact ⟨_, rfl, .primitive _⟩
  | shiftRows => exact ⟨_, rfl, .primitive _⟩
  | invShiftRows => exact ⟨_, rfl, .primitive _⟩
  | mixColumns => exact ⟨_, rfl, .primitive _⟩
  | invMixColumns => exact ⟨_, rfl, .primitive _⟩
  | addRoundKey ridx =>
    simp only [exec, execAddRoundKey]
    cases hv : selectedVariant s with
    | none => exact ⟨_, rfl, .failed _ _ (by decide)⟩
    | some v =>
      by_cases hr : nrOf v < ridx
      · exact ⟨raise false .roundRange s, by simp only [hr, if_true], .failed _ _ (by decide)⟩
      · exact ⟨complete .none (storeBlock (addRoundKey s.block (keyExpansion s.key v) ridx) (expandInto v s)),
          by simp only [hr, if_false], .keyed v _ hv⟩

/-! ## The shapes of a host access (R66, R277, R278) -/

/-- Everything a host read can do: the machine keeps its state, the port answers. -/
theorem hostRead_cases (a : BitVec 18) (s : State) :
    hostRead a s = respond (.read 0 true) s ∨
    (∃ loc, locate (bufBytes s) a.toNat = some loc ∧ (busy s && isResult loc) = true ∧
      hostRead a s = respond (.read (busyValue s loc) false) { s with draws := s.draws + 1 }) ∨
    ∃ loc, locate (bufBytes s) a.toNat = some loc ∧ (busy s && isResult loc) = false ∧
      hostRead a s = respond (.read (readValue s loc) false) s := by
  unfold hostRead
  by_cases hm : misaligned a = true
  · simp [hm]
  · cases hl : locate (bufBytes s) a.toNat with
    | none => simp [hm]
    | some loc =>
      by_cases hb : (busy s && isResult loc) = true
      · exact .inr (.inl ⟨loc, rfl, hb, by simp [hm, hb]⟩)
      · exact .inr (.inr ⟨loc, rfl, by simpa using hb, by simp [hm, hb]⟩)

/-- Everything a host write can do: an error answer, a dropped write, or the write. -/
theorem hostWrite_cases (a : BitVec 18) (d : Word) (s : State) :
    hostWrite a d s = respond (.write true) s ∨
    (busy s = true ∧ hostWrite a d s = respond (.write false) (dropWrite s)) ∨
    ∃ loc, locate (bufBytes s) a.toNat = some loc ∧ isWritable loc = true ∧ (busy s = false ∨ loc = .status) ∧
      hostWrite a d s = respond (.write false) (writeLocation d s loc) := by
  unfold hostWrite
  by_cases hm : misaligned a = true
  · simp [hm]
  · cases hl : locate (bufBytes s) a.toNat with
    | none => simp [hm]
    | some loc =>
      by_cases hw : isWritable loc = true
      · by_cases hb : (busy s && loc != .status) = true
        · refine .inr (.inl ⟨(Bool.and_eq_true_iff.mp hb).1, by simp [hm, hw, hb]⟩)
        · refine .inr (.inr ⟨loc, rfl, hw, ?_, by simp [hm, hw, hb]⟩)
          cases hbs : busy s with
          | false => exact .inl rfl
          | true => exact .inr (by simpa [hbs] using hb)
      · simp [hm, hw]

/-! ## The shapes of a step (R41, R42) -/

/-- Everything a step can do: the engine's turn, a host access, or reset; `r` is the agenda that is left. -/
theorem step_cases (s : State) :
    (s.agenda = [] ∧ step s = engineTurn s) ∨
    ∃ e r, s.agenda = e :: r ∧ step s = takeTurn e { s with agenda := r } := by
  unfold step
  cases h : s.agenda with
  | nil => exact .inl ⟨rfl, rfl⟩
  | cons e r => exact .inr ⟨e, r, rfl, rfl⟩

/-- Everything the engine's turn can do: nothing while idle, an illegal word's completion, or a command's step. -/
theorem engineTurn_cases (s : State) :
    (s.pending = none ∧ engineTurn s = .next s) ∨
    (∃ c why, s.pending = some c ∧ decode c = .error why ∧ engineTurn s = .next (raise false .illegalCmd s)) ∨
    ∃ c i, s.pending = some c ∧ decode c = .ok i ∧ engineTurn s = exec i s := by
  unfold engineTurn
  cases hp : s.pending with
  | none => exact .inl ⟨rfl, rfl⟩
  | some c =>
    cases hd : decode c with
    | error why => exact .inr (.inl ⟨c, why, rfl, hd, by simp [hd]⟩)
    | ok i => exact .inr (.inr ⟨c, i, rfl, hd, by simp [hd]⟩)

end Sys2Proof.Machine
end

