-- ==== Sys2Proof/Laws/Bus.lean ====
section
/-! SUPPORT. The address map and the accesses at a known location. -/
namespace Sys2Proof.Machine

/-! ## The address map (R61) -/

/-- A located address lies in one of the mapped ranges, at the location its range gives. -/
theorem locate_some {size n : Nat} {loc : Location} (h : locate size n = some loc) :
    ∃ r ∈ addressMap size, r.base ≤ n ∧ n < r.base + r.length ∧ loc = r.place (n - r.base) := by
  unfold locate at h
  cases hf : (addressMap size).find? (inRegion n) with
  | none => simp [hf] at h
  | some r =>
    rw [hf] at h
    have hp := List.find?_some hf
    simp only [inRegion, Bool.and_eq_true, decide_eq_true_eq] at hp
    exact ⟨r, List.mem_of_find?_eq_some hf, hp.1, hp.2, (Option.some.inj h).symm⟩

/-- The located word of an aligned address is the one the host's map names by that address. -/
theorem addressOf_of_locate {size n : Nat} {loc : Location} (ha : n % 4 = 0) (h : locate size n = some loc) :
    addressOf loc = n := by
  obtain ⟨r, hr, hb, hl, rfl⟩ := locate_some h
  simp only [addressMap, List.mem_cons, List.not_mem_nil, or_false] at hr
  rcases hr with rfl | rfl | rfl | rfl | rfl | rfl | rfl | rfl | rfl | rfl | rfl <;>
    simp only [addressOf, Fin.ofNat] at * <;> omega

/-- Two aligned addresses at one location are one address. -/
theorem locate_inj {size m n : Nat} {loc : Location} (hm : m % 4 = 0) (hn : n % 4 = 0) (h : locate size m = some loc)
    (h' : locate size n = some loc) : m = n :=
  (addressOf_of_locate hm h).symm.trans (addressOf_of_locate hn h')

theorem locate_inBuf {size n k : Nat} (h : locate size n = some (.inBuf k)) : n = 0x10000 + k ∧ k < size := by
  obtain ⟨r, hr, hb, hl, hp⟩ := locate_some h
  simp only [addressMap, List.mem_cons, List.not_mem_nil, or_false] at hr
  rcases hr with rfl | rfl | rfl | rfl | rfl | rfl | rfl | rfl | rfl | rfl | rfl <;>
    simp only [Location.inBuf.injEq, reduceCtorEq] at hp hb hl
  omega

theorem locate_outBuf {size n k : Nat} (h : locate size n = some (.outBuf k)) : n = 0x20000 + k ∧ k < size := by
  obtain ⟨r, hr, hb, hl, hp⟩ := locate_some h
  simp only [addressMap, List.mem_cons, List.not_mem_nil, or_false] at hr
  rcases hr with rfl | rfl | rfl | rfl | rfl | rfl | rfl | rfl | rfl | rfl | rfl <;>
    simp only [Location.outBuf.injEq, reduceCtorEq] at hp hb hl
  omega

/-- An address in a mapped range is located, if the buffers do not overlap (R8: BUF_BYTES <= 65536). -/
theorem locate_eq {size n : Nat} (hs : size ≤ 0x10000) {r : Region} (hr : r ∈ addressMap size) (hb : r.base ≤ n)
    (hl : n < r.base + r.length) : locate size n = some (r.place (n - r.base)) := by
  have hf : (addressMap size).find? (inRegion n) = some r := by
    simp only [addressMap, List.mem_cons, List.not_mem_nil, or_false] at hr
    rcases hr with rfl | rfl | rfl | rfl | rfl | rfl | rfl | rfl | rfl | rfl | rfl <;>
      simp only [addressMap, List.find?_cons, inRegion] at * <;>
      repeat' (first
        | rw [show (decide _ && decide _) = false by simp; omega]
        | rw [show (decide _ && decide _) = true by simp; omega])
  simp [locate, hf]

/-! ## Alignment (R63) -/

theorem misaligned_iff (a : BitVec 18) : misaligned a = true ↔ a.toNat % 4 ≠ 0 := by
  simp [misaligned, ← BitVec.toNat_inj, BitVec.extractLsb'_toNat]

/-! ## Accesses at a known location -/

theorem hostRead_located {a : BitVec 18} {s : State} {loc : Location} (ha : a.toNat % 4 = 0)
    (hl : locate (bufBytes s) a.toNat = some loc) :
    hostRead a s =
      if busy s && isResult loc then respond (.read (busyValue s loc) false) { s with draws := s.draws + 1 }
      else respond (.read (readValue s loc) false) s := by
  have hm : misaligned a = false := by
    rw [← Bool.not_eq_true, misaligned_iff]
    omega
  simp only [hostRead, hm, hl, Bool.false_eq_true, if_false]

theorem hostWrite_located {a : BitVec 18} {d : Word} {s : State} {loc : Location} (ha : a.toNat % 4 = 0)
    (hl : locate (bufBytes s) a.toNat = some loc) (hw : isWritable loc = true) :
    hostWrite a d s =
      if busy s && loc != .status then respond (.write false) (dropWrite s)
      else respond (.write false) (writeLocation d s loc) := by
  have hm : misaligned a = false := by
    rw [← Bool.not_eq_true, misaligned_iff]
    omega
  simp only [hostWrite, hm, hl, hw, Bool.false_eq_true, if_false, Bool.not_true]

theorem hostRead_rejected {a : BitVec 18} {s : State} (h : a.toNat % 4 ≠ 0 ∨ locate (bufBytes s) a.toNat = none) :
    hostRead a s = respond (.read 0 true) s := by
  unfold hostRead
  rcases h with h | h
  · simp [(misaligned_iff a).mpr h]
  · split <;> simp [h]

end Sys2Proof.Machine
end

