-- ==== Sys2Proof/Laws/PerInstr.lean ====
section
/-! SUPPORT. Statements made once per command (LAWS.json). -/
namespace Sys2Proof.Laws.LegalEncoding
open Sys2Proof

/-- The word of a well-formed command is legal (R94) and uses RIDX only if its command has one (R92). -/
def Statement (i : Instr) : Prop :=
  i.wellFormed = true → legal (encode i) = true ∧ (ridxField (encode i) = 0 ∨ ∃ r, i = .addRoundKey r)

theorem expandKey : Statement .expandKey := fun _ => ⟨by decide, .inl (by decide)⟩
theorem encBlock : Statement .encBlock := fun _ => ⟨by decide, .inl (by decide)⟩
theorem decBlock : Statement .decBlock := fun _ => ⟨by decide, .inl (by decide)⟩
theorem ecbEnc : Statement .ecbEnc := fun _ => ⟨by decide, .inl (by decide)⟩
theorem ecbDec : Statement .ecbDec := fun _ => ⟨by decide, .inl (by decide)⟩
theorem cbcEnc : Statement .cbcEnc := fun _ => ⟨by decide, .inl (by decide)⟩
theorem cbcDec : Statement .cbcDec := fun _ => ⟨by decide, .inl (by decide)⟩
theorem subBytes : Statement .subBytes := fun _ => ⟨by decide, .inl (by decide)⟩
theorem invSubBytes : Statement .invSubBytes := fun _ => ⟨by decide, .inl (by decide)⟩
theorem shiftRows : Statement .shiftRows := fun _ => ⟨by decide, .inl (by decide)⟩
theorem invShiftRows : Statement .invShiftRows := fun _ => ⟨by decide, .inl (by decide)⟩
theorem mixColumns : Statement .mixColumns := fun _ => ⟨by decide, .inl (by decide)⟩
theorem invMixColumns : Statement .invMixColumns := fun _ => ⟨by decide, .inl (by decide)⟩

theorem addRoundKey (ridx : Nat) : Statement (.addRoundKey ridx) := by
  intro h
  have hr : ridx < 16 := by simpa [Instr.wellFormed] using h
  refine ⟨?_, .inr ⟨ridx, rfl⟩⟩
  interval_cases ridx <;> decide

end Sys2Proof.Laws.LegalEncoding
end

