-- ==== Sys2Proof/Machine/HostProgram.lean ====
section
/-! DEFINITION. The host-program syntax of the spec (30_encoding.md R98, R99): statements and pseudo-instructions as the bus
transactions they stand for. It is host software, not hardware (92_eei_decisions.md D33): it only builds agendas. Where
the engine's steps fall among the transactions is the agenda's own (10_state.md R42). -/
namespace Sys2Proof.Machine

/-- R98: `addr(<loc>)` as an 18-bit bus address. -/
def busAddress (loc : Location) : BitVec 18 := BitVec.ofNat 18 (addressOf loc)

/-- R98: `wr <loc>, <imm32>` is one write `(W, addr(<loc>), imm32)`. -/
def wr (loc : Location) (imm : Word) : Event := .write (busAddress loc) imm

/-- R98: `rd <loc>` is one read `(R, addr(<loc>))`. -/
def rd (loc : Location) : Event := .read (busAddress loc)

/-- R99: `cmd <MNEMONIC>` and `cmd ADD_ROUND_KEY, <r>` write the command word to CMD. -/
def cmd (i : Instr) : List Event := [wr .cmd (encode i)]

/-- R99: `wait` reads STATUS until DONE is 1, "the number of reads is not fixed": here `n` reads. -/
def wait (n : Nat) : List Event := List.replicate n (rd .status)

/-- R99: `clr` is `wr STATUS, 0x00000006`, which clears DONE and WERR. -/
def clr : List Event := [wr .status 0x00000006]

/-- R99: `ldkey <hex>` for a key of 16, 24 or 32 bytes: its words to KEY0 .. KEY(Nk-1), then its length to CTRL (IE = 0). -/
def ldkey (key : List Byte) : List Event :=
  (List.range (key.length / 4)).map (fun i => wr (.key (Fin.ofNat 8 i)) (wordAt key (4 * i))) ++
    [wr .ctrl (BitVec.ofNat 32 key.length)]

/-- R99: `ldblk STATE, <hex>`. -/
def ldblkState (b : Block) : List Event := [wr (.state 0) b.c0, wr (.state 1) b.c1, wr (.state 2) b.c2, wr (.state 3) b.c3]

/-- R99: `ldblk IV, <hex>`. -/
def ldblkIv (b : Block) : List Event := [wr (.iv 0) b.c0, wr (.iv 1) b.c1, wr (.iv 2) b.c2, wr (.iv 3) b.c3]

/-- R99: `ldbuf <hex>` for a byte string of length L: words j = 0 .. ceil(L/4)-1 to IN_BUF, "byte positions at or beyond L
written as 0x00", then L to IN_LEN. -/
def ldbuf (m : List Byte) : List Event :=
  (List.range ((m.length + 3) / 4)).map (fun j => wr (.inBuf (4 * j)) (wordAt m (4 * j))) ++
    [wr .inLen (BitVec.ofNat 32 m.length)]

/-- R99: `expect <loc>, <imm32>` is `rd <loc>`; the expected value is "an assertion of the program text, not a bus
action". -/
def expect (loc : Location) (_imm : Word) : List Event := [rd loc]

end Sys2Proof.Machine
end

