-- ==== Sys2Proof/Tests/Slice0.lean ====
section
/-! SUPPORT. Tests of single steps on small states. Every expected value comes from the spec: 95_test_vectors.md (the vector's
id stands in the comment) or an example of the rule named. -/
namespace Sys2Proof.Tests
set_option Elab.async false -- the theorems below are checked one after another, to keep the memory of a check small
open Sys2Proof.Machine Sys2Proof.Spec

/-! ## Helpers -/

/-- A field of the next state, if there is one. -/
def after {α : Type} (f : State → α) : Host.Outcome State Fault Refusal → Option α
  | .next t => some (f t)
  | .fault _ => none
  | .refused _ => none

/-- The reset state of a machine with `16 * (n + 1)` buffer bytes. -/
def sized (n : Fin 4096) : State := { State.reset with bufBlocks := n }

/-- A machine with 64-byte buffers, a key length and a key. -/
def keyed (keylen : BitVec 8) (key : Vector Word 8) : State := { sized 3 with ctrl := ⟨keylen, false⟩, key := key }

/-- The same with an input stream. -/
def streamed (keylen : BitVec 8) (key : Vector Word 8) (x : List Byte) : State :=
  { keyed keylen key with inLen := BitVec.ofNat 17 x.length, inBuf := memPutAll 0 x [] }

/-- The written bytes of OUT_BUF[0 .. n) as blocks. -/
def outBlocks (n : Nat) (s : State) : List Block := blocksOf ((List.range n).map (fun a => (memGet s.outBuf a).getD 0))

/-- key 2b7e151628aed2a6abf7158809cf4f3c (K-1) -/
def keyK1 : Vector Word 8 := #v[0x2b7e1516, 0x28aed2a6, 0xabf71588, 0x09cf4f3c, 0, 0, 0, 0]
/-- key 8e73b0f7da0e6452c810f32b809079e562f8ead2522c6b7b (K-2) -/
def keyK2 : Vector Word 8 := #v[0x8e73b0f7, 0xda0e6452, 0xc810f32b, 0x809079e5, 0x62f8ead2, 0x522c6b7b, 0, 0]
/-- key 603deb10…0914dff4 (K-3) -/
def keyK3 : Vector Word 8 :=
  #v[0x603deb10, 0x15ca71be, 0x2b73aef0, 0x857d7781, 0x1f352c07, 0x3b6108d7, 0x2d9810a3, 0x0914dff4]
/-- key 000102…1f (K-4, B-1, B-2, B-3) -/
def keySeq : Vector Word 8 :=
  #v[0x00010203, 0x04050607, 0x08090a0b, 0x0c0d0e0f, 0x10111213, 0x14151617, 0x18191a1b, 0x1c1d1e1f]
/-- the zero key -/
def keyZero : Vector Word 8 := Vector.replicate 8 0
/-- block 000102030405060708090a0b0c0d0e0f -/
def blockSeq : Block := ⟨0x00010203, 0x04050607, 0x08090a0b, 0x0c0d0e0f⟩
/-- block 00112233445566778899aabbccddeeff -/
def blockFips : Block := ⟨0x00112233, 0x44556677, 0x8899aabb, 0xccddeeff⟩
/-- block 6bc1bee22e409f96e93d7e117393172a -/
def blockSp : Block := ⟨0x6bc1bee2, 0x2e409f96, 0xe93d7e11, 0x7393172a⟩
/-- sixteen 0x10 bytes -/
def blockTens : Block := ⟨0x10101010, 0x10101010, 0x10101010, 0x10101010⟩

/-! ## WellFormed: the one check, RIDX < 16 (R92) -/

theorem test_wellFormed_refuses_ridx_16 : (Instr.addRoundKey 16).wellFormed = false := by decide
theorem test_wellFormed_accepts_ridx_15 : (Instr.addRoundKey 15).wellFormed = true := by decide

/-! ## Decode: every row's word as R93 writes it, and illegal words (R95, P-32, P-33, R-17, R-18, K-6) -/

theorem test_decode_expandKey : (decode 0x00000001).toOption = some .expandKey := by decide
theorem test_decode_encBlock : (decode 0x00000002).toOption = some .encBlock := by decide
theorem test_decode_decBlock : (decode 0x00000003).toOption = some .decBlock := by decide
theorem test_decode_ecbEnc : (decode 0x00000010).toOption = some .ecbEnc := by decide
theorem test_decode_ecbDec : (decode 0x00000011).toOption = some .ecbDec := by decide
theorem test_decode_cbcEnc : (decode 0x00000012).toOption = some .cbcEnc := by decide
theorem test_decode_cbcDec : (decode 0x00000013).toOption = some .cbcDec := by decide
theorem test_decode_subBytes : (decode 0x00000020).toOption = some .subBytes := by decide
theorem test_decode_invSubBytes : (decode 0x00000021).toOption = some .invSubBytes := by decide
theorem test_decode_shiftRows : (decode 0x00000022).toOption = some .shiftRows := by decide
theorem test_decode_invShiftRows : (decode 0x00000023).toOption = some .invShiftRows := by decide
theorem test_decode_mixColumns : (decode 0x00000024).toOption = some .mixColumns := by decide
theorem test_decode_invMixColumns : (decode 0x00000025).toOption = some .invMixColumns := by decide
theorem test_decode_addRoundKey : (decode 0b0000_0000_0000_0000_0000_1010_0010_0110).toOption = some (.addRoundKey 10) := by
  decide
theorem test_decode_table_word : decodeTableWord 32 0xF26 = some (.addRoundKey 15) := by decide
theorem test_decode_reserved_bit : decode 0x00010026 = .error .reservedBits := by rfl
theorem test_decode_stray_ridx : decode 0x00000120 = .error .strayRidx := by rfl
theorem test_decode_unassigned : decode 0x00000004 = .error .unassignedOpcode := by rfl

/-! ## GF(2^8) and the tables -/

/-- G-1, G-4, G-6, G-10 -/
theorem test_gmul : gmul 0x57 0x83 = 0xC1 ∧ gmul 0x80 0x02 = 0x1B ∧ gmul 0x53 0xCA = 0x01 ∧ gmul 0x0E 0x0B = 0x62 := by
  decide
/-- G-11, G-12 -/
theorem test_tables : sbox 0x53 = 0xED ∧ sbox 0x80 = 0xCD ∧ sbox 0xFF = 0x16 ∧ invSbox 0x63 = 0x00 ∧ invSbox 0x52 = 0x48 := by
  decide
/-- R115, R121, over all 256 bytes: the tables are inverse, and SBox is the affine map of R121 applied to the inverse of `x`
(the affine map undone by rotations 1, 3 and 6, then multiplied back by `x`). -/
theorem test_sbox_inverse_and_construction :
    (∀ x : Byte, invSbox (sbox x) = x) ∧ sbox 0 = sboxAffine 0 ∧
    ∀ x : Byte, x ≠ 0 →
      sbox x = sboxAffine ((sbox x).rotateLeft 1 ^^^ (sbox x).rotateLeft 3 ^^^ (sbox x).rotateLeft 6 ^^^ 0x05) ∧
      gmul x ((sbox x).rotateLeft 1 ^^^ (sbox x).rotateLeft 3 ^^^ (sbox x).rotateLeft 6 ^^^ 0x05) = 0x01 := by decide +kernel
/-- G-14, G-15, G-16 -/
theorem test_word_functions :
    rotWord 0x09CF4F3C = 0xCF4F3C09 ∧ subWord 0xCF4F3C09 = 0x8A84EB01 ∧ rconWord 0 = 0x01000000 ∧ rconWord 9 = 0x36000000 := by
  decide

/-! ## EXPAND_KEY -/

/-- K-1: RK4, RK43, RK44 -/
theorem test_expandKey_128 :
    after (fun t => (t.rk[4], t.rk[43], t.rk[44], statusWord t)) (exec .expandKey (keyed 16 keyK1)) =
      some (0xa0fafe17, 0xb6630ca6, 0, 0x02) := by decide +kernel
/-- K-2, K-3: the last schedule words -/
theorem test_expandKey_192_256 :
    after (fun t => (t.rk[6], t.rk[51], t.rk[52])) (exec .expandKey (keyed 24 keyK2)) = some (0xfe0c91f7, 0x01002202, 0) ∧
    after (fun t => (t.rk[12], t.rk[59])) (exec .expandKey (keyed 32 keyK3)) = some (0xa8b09c1a, 0x706c631e) := by
  decide +kernel

/-! ## The primitives: P-1 … P-8, P-25 … P-31 -/

theorem test_subBytes : after (·.block) (exec .subBytes { sized 3 with block := blockSeq }) =
    some ⟨0x637c777b, 0xf26b6fc5, 0x3001672b, 0xfed7ab76⟩ := by decide +kernel
theorem test_invSubBytes : after (·.block) (exec .invSubBytes { sized 3 with block := blockSeq }) =
    some ⟨0x52096ad5, 0x3036a538, 0xbf40a39e, 0x81f3d7fb⟩ := by decide +kernel
theorem test_shiftRows : after (·.block) (exec .shiftRows { sized 3 with block := blockSeq }) =
    some ⟨0x00050a0f, 0x04090e03, 0x080d0207, 0x0c01060b⟩ := by decide +kernel
theorem test_invShiftRows : after (·.block) (exec .invShiftRows { sized 3 with block := blockSeq }) =
    some ⟨0x000d0a07, 0x04010e0b, 0x0805020f, 0x0c090603⟩ := by decide +kernel
theorem test_mixColumns : after (·.block) (exec .mixColumns { sized 3 with block := blockSeq }) =
    some ⟨0x02070005, 0x06030401, 0x0a0f080d, 0x0e0b0c09⟩ := by decide +kernel
/-- P-11 -/
theorem test_mixColumns_trace : mixColumns ⟨0xd4bf5d30, 0xe0b452ae, 0xb84111f1, 0x1e2798e5⟩ =
    ⟨0x046681e5, 0xe0cb199a, 0x48f8d37a, 0x2806264c⟩ := by decide +kernel
theorem test_invMixColumns : after (·.block) (exec .invMixColumns { sized 3 with block := blockSeq }) =
    some ⟨0x0a0f080d, 0x0e0b0c09, 0x02070005, 0x06030401⟩ := by decide +kernel
/-- P-8 -/
theorem test_addRoundKey : after (·.block) (exec (.addRoundKey 10) { keyed 16 keySeq with block := blockSeq }) =
    some ⟨0x13101f7c, 0xe7914c10, 0xfb0ead80, 0x41263eca⟩ := by decide +kernel
/-- P-25, P-28, P-29, P-30: the round range, and the key length before it -/
theorem test_addRoundKey_errors :
    after statusWord (exec (.addRoundKey 11) (keyed 16 keyK1)) = some 0x62 ∧
    after statusWord (exec (.addRoundKey 14) (keyed 32 keyK3)) = some 0x02 ∧
    after statusWord (exec (.addRoundKey 15) (keyed 32 keyK3)) = some 0x62 ∧
    after statusWord (exec (.addRoundKey 15) (keyed 0 keyK1)) = some 0x22 := by decide +kernel

/-! ## ENC_BLOCK, DEC_BLOCK: B-1, B-2, B-3, B-11, B-18 -/

theorem test_encBlock :
    after (·.block) (exec .encBlock { keyed 16 keySeq with block := blockFips }) =
      some ⟨0x69c4e0d8, 0x6a7b0430, 0xd8cdb780, 0x70b4c55a⟩ ∧
    after (·.block) (exec .encBlock { keyed 24 keySeq with block := blockFips }) =
      some ⟨0xdda97ca4, 0x864cdfe0, 0x6eaf70a0, 0xec0d7191⟩ ∧
    after (·.block) (exec .encBlock { keyed 32 keySeq with block := blockFips }) =
      some ⟨0x8ea2b7ca, 0x516745bf, 0xeafc4990, 0x4b496089⟩ := by decide +kernel
theorem test_encBlock_bad_key_length :
    after (fun t => (statusWord t, t.block)) (exec .encBlock { keyed 17 keySeq with block := blockFips }) =
      some (0x22, blockFips) := by decide +kernel
theorem test_decBlock :
    after (·.block) (exec .decBlock { keyed 16 keyZero with block := Block.zero }) =
      some ⟨0x140f0f10, 0x11b5223d, 0x79587717, 0xffd9ec3a⟩ ∧
    after (·.block) (exec .decBlock { keyed 32 keySeq with block := ⟨0x8ea2b7ca, 0x516745bf, 0xeafc4990, 0x4b496089⟩ }) =
      some blockFips := by decide +kernel

/-! ## The modes: M-1 … M-4, M-6a, M-13, M-18, M-19, M-25, M-28 -/

/-- the IV of section 2.6 -/
def ivSp : Block := blockSeq

theorem test_ecbEnc : after (fun t => (t.outLen, outBlocks 32 t)) (exec .ecbEnc (streamed 16 keyK1 blockSp.toBytes)) =
    some (32, [⟨0x3ad77bb4, 0x0d7a3660, 0xa89ecaf3, 0x2466ef97⟩, ⟨0xa254be88, 0xe037ddd9, 0xd79fb641, 0x1c3f9df8⟩]) := by
  decide +kernel
/-- M-25, M-26 with BUF_BYTES = 32 -/
theorem test_ecbEnc_length :
    after statusWord (exec .ecbEnc { streamed 16 keyK1 (List.replicate 32 0) with bufBlocks := 1 }) = some 0x52 ∧
    after (fun t => (statusWord t, t.outLen)) (exec .ecbEnc { streamed 16 keyK1 (List.replicate 31 0) with bufBlocks := 1 }) =
      some (0x02, 32) := by decide +kernel
theorem test_ecbDec : after (fun t => (t.outLen, outBlocks 32 t)) (exec .ecbDec (streamed 16 keyK1
    (bytesOf [⟨0x3ad77bb4, 0x0d7a3660, 0xa89ecaf3, 0x2466ef97⟩, ⟨0xa254be88, 0xe037ddd9, 0xd79fb641, 0x1c3f9df8⟩]))) =
    some (16, [blockSp, blockTens]) := by decide +kernel
/-- M-19, M-18, M-15, M-28 -/
theorem test_ecbDec_errors :
    after (fun t => (statusWord t, t.outLen, outBlocks 16 t, t.rk[4]))
        (exec .ecbDec { streamed 16 keyZero (bytesOf [⟨0x66e94bd4, 0xef8a2c3b, 0x884cfa59, 0xca342b2e⟩]) with outLen := 7 }) =
      some (0x42, 0, [Block.zero], 0x62636363) ∧
    after statusWord (exec .ecbDec (streamed 16 keyZero [])) = some 0x42 ∧
    after statusWord (exec .ecbDec (streamed 16 keyZero (List.replicate 17 0))) = some 0x32 ∧
    after statusWord (exec .ecbDec { keyed 16 keyZero with bufBlocks := 1, inLen := 47 }) = some 0x52 := by decide +kernel
/-- M-6a: the 20 bytes "Hello, AES-CORE!!!!!" -/
theorem test_cbcEnc : after (fun t => (t.outLen, outBlocks 32 t, t.iv)) (exec .cbcEnc { streamed 16 keyK1
    [0x48, 0x65, 0x6c, 0x6c, 0x6f, 0x2c, 0x20, 0x41, 0x45, 0x53, 0x2d, 0x43, 0x4f, 0x52, 0x45, 0x21, 0x21, 0x21, 0x21, 0x21]
    with iv := ivSp }) =
    some (32, [⟨0x106e1dca, 0x563e1d54, 0x60092371, 0x14833709⟩, ⟨0x35156345, 0x90e1e39a, 0x3765c26b, 0xbe672c33⟩], ivSp) := by
  decide +kernel
/-- M-13: the wrong IV (zero) spoils block 0 only. -/
theorem test_cbcDec : after (fun t => (t.outLen, outBlocks 32 t)) (exec .cbcDec (streamed 16 keyK1
    (bytesOf [⟨0x106e1dca, 0x563e1d54, 0x60092371, 0x14833709⟩, ⟨0x35156345, 0x90e1e39a, 0x3765c26b, 0xbe672c33⟩]))) =
    some (20, [⟨0x48646e6f, 0x6b292646, 0x4d5a2748, 0x435f4b2e⟩, ⟨0x21212121, 0x0c0c0c0c, 0x0c0c0c0c, 0x0c0c0c0c⟩]) := by
  decide +kernel
/-- M-16: the key length comes first. -/
theorem test_cbcDec_priority : after statusWord (exec .cbcDec { keyed 20 keyK1 with inLen := 17 }) = some 0x22 := by
  decide +kernel

/-! ## The bus and the turns: R-2 … R-13, R-17 -/

/-- R-2, R-3 -/
theorem test_write_reserved_bits :
    readValue (hostWrite 0x00000 0xFFFFFFFF (sized 3)) .ctrl = 0x000001FF ∧
    readValue (hostWrite 0x0000C 0xFFFFFFFF (sized 3)) .inLen = 0x0001FFFF := by decide +kernel
/-- R-4 … R-8 -/
theorem test_bus_responses :
    (hostRead 0x00004 (sized 3)).response = some (.read 0 false) ∧
    (hostRead 0x00002 (sized 3)).response = some (.read 0 true) ∧
    (hostWrite 0x00014 0 (sized 3)).response = some (.write true) ∧
    (hostWrite 0x00010 0 (sized 3)).response = some (.write true) ∧
    (hostWrite 0x20000 0 (sized 3)).response = some (.write true) ∧
    (hostRead 0x10040 (sized 3)).response = some (.read 0 true) := by decide +kernel
/-- R-9, R-10 -/
theorem test_status_write :
    statusWord (hostWrite 0x00008 0xF1 { sized 3 with status := ⟨true, false, 4⟩ }) = 0x42 ∧
    statusWord (hostWrite 0x00008 0x02 { sized 3 with status := ⟨true, false, 4⟩ }) = 0x40 := by decide +kernel
/-- R-12 (b), R-13, R-15 -/
theorem test_busy_rules :
    (hostWrite 0x00050 0xFFFFFFFF (issued 0x02 (sized 3))).block = Block.zero ∧
    statusWord (hostWrite 0x00050 0xFFFFFFFF (issued 0x02 (sized 3))) = 0x05 ∧
    (hostWrite 0x00004 0x03 (issued 0x02 (sized 3))).pending = some 0x02 ∧
    (hostRead 0x00020 (issued 0x02 (keyed 16 keyK1))).response = some (.read 0x2b7e1516 false) := by decide +kernel
/-- R-17: an illegal word with a mode command's OPC leaves OUT_LEN alone. -/
theorem test_illegal_word : after (fun t => (statusWord t, t.outLen)) (step (issued 0x00001010 { sized 3 with outLen := 9 })) =
    some (0x12, 9) := by decide +kernel
/-- The word placed by withFetchWord runs as the first instruction after reset. -/
theorem test_fetch_word : after (·.block) (step (State.withFetchWord State.reset 32 0x20)) =
    some ⟨0x63636363, 0x63636363, 0x63636363, 0x63636363⟩ := by decide +kernel

/-! ## The sequencer and the host syntax -/

/-- R182: ROUND is taken Nr-1 times: after 2 + 9 phases AES-128 is at FINAL, and B-4's result comes out. -/
theorem test_sequencer :
    (seqRun 11 (seqStart .encrypt .aes128 keyK1 Block.zero)).phase = .final ∧
    (seqRun 12 (seqStart .encrypt .aes128 keyK1 ⟨0x3243f6a8, 0x885a308d, 0x313198a2, 0xe0370734⟩)).block =
      ⟨0x3925841d, 0x02dc09fb, 0xdc118597, 0x196a0b32⟩ := by decide +kernel
/-- P3: `cmd ADD_ROUND_KEY, 11` is (W, 0x00004, 0x00000B26). -/
theorem test_cmd_encoding : cmd (.addRoundKey 11) = [.write 0x00004 0x00000B26] := by decide
/-- P2: `ldbuf` of 20 bytes writes five words and the length. -/
theorem test_ldbuf_encoding : ldbuf (List.replicate 20 0x21) =
    [.write 0x10000 0x21212121, .write 0x10004 0x21212121, .write 0x10008 0x21212121, .write 0x1000C 0x21212121,
     .write 0x10010 0x21212121, .write 0x0000C 0x00000014] := by decide +kernel

/-! ## Witnesses: for every obligation with hypotheses, a concrete state and operands that meet them, each clause at a boundary
value. They say nothing about what the obligation concludes. -/

/-- the state a command leaves, or `s` -/
def result (i : Instr) (s : State) : State := (after id (exec i s)).getD s
theorem exec_result (i : Instr) (s : State) : exec i s = .next (result i s) := by
  obtain ⟨t, ht, -⟩ := exec_shape i s
  rw [result, ht]
  rfl
/-- the machine with ENC_BLOCK (0x02) pending -/
def busyMachine : State := issued 0x02 (keyed 16 keyK1)
/-- ECB ciphertext of M-1 -/
def cipherM1 : List Byte := bytesOf [⟨0x3ad77bb4, 0x0d7a3660, 0xa89ecaf3, 0x2466ef97⟩, ⟨0xa254be88, 0xe037ddd9, 0xd79fb641, 0x1c3f9df8⟩]
/-- CBC ciphertext of M-6a -/
def cipherM6 : List Byte := bytesOf [⟨0x106e1dca, 0x563e1d54, 0x60092371, 0x14833709⟩, ⟨0x35156345, 0x90e1e39a, 0x3765c26b, 0xbe672c33⟩]
/-- the padded plaintext of M-6a -/
def plainM6 : List Byte :=
  [0x48, 0x65, 0x6c, 0x6c, 0x6f, 0x2c, 0x20, 0x41, 0x45, 0x53, 0x2d, 0x43, 0x4f, 0x52, 0x45, 0x21, 0x21, 0x21, 0x21, 0x21] ++
    List.replicate 12 0x0C
/-- the decrypting machine of M-1, its buffers exactly full -/
def ecbM1 : State := { streamed 16 keyK1 cipherM1 with bufBlocks := 1 }
/-- the decrypting machine of M-6a, its buffers exactly full -/
def cbcM6 : State := { streamed 16 keyK1 cipherM6 with bufBlocks := 1, iv := ivSp }
/-- M-19: one block that decrypts to sixteen zero bytes -/
def badM19 : State := streamed 16 keyZero (bytesOf [⟨0x66e94bd4, 0xef8a2c3b, 0x884cfa59, 0xca342b2e⟩])
/-- a full 15-byte stream in a machine with 16-byte buffers -/
def small15 : State := { streamed 16 keyK1 (List.replicate 15 0x5A) with bufBlocks := 0, iv := ivSp }
/-- thirty-two 0x10 bytes to encrypt -/
def tens32 : State := streamed 16 keyK1 (List.replicate 32 0x10)
/-- small15 after `enc`, its output copied to its input -/
def copied (enc : Instr) : State := { small15 with inLen := (result enc small15).outLen, inBuf := (result enc small15).outBuf }

theorem witness_DecodeOfEncodeIsTheCommand : (Instr.addRoundKey 15).wellFormed = true ∧ Instr.cbcDec.wellFormed = true := by decide
theorem witness_EncodeOfDecodeIsTheWord : decode 0x00000F26 = .ok (.addRoundKey 15) ∧ decode 0x00000001 = .ok .expandKey :=
  ⟨rfl, rfl⟩
theorem witness_LegalWordSelectsExactlyOneRow : legal 0x00000F26 = true ∧ legal 0x00000001 = true ∧ legal 0x00000000 = false ∧
    legal 0x00001026 = false ∧ legal 0x00000027 = false ∧ legal 0x00000125 = false := by decide
theorem witness_IllegalWordChangesOnlyStatus : busy (sized 3) = false ∧ legal 0x00000000 = false ∧ legal 0x80000001 = false := by
  decide
theorem witness_StepRunsThePendingCommand :
    (busyMachine.pending = some 0x02 ∧ decode 0x02 = .ok .encBlock ∧ busyMachine.agenda = []) ∧
    { busyMachine with agenda := [.engine, .read 8] }.agenda = .engine :: [.read 8] ∧
    (Instr.addRoundKey 15).wellFormed = true := ⟨⟨rfl, rfl, rfl⟩, rfl, rfl⟩
theorem witness_StepTakesTheNextTurn :
    { sized 3 with agenda := [.read 0x3FFFF] }.agenda = .read 0x3FFFF :: [] ∧
    { sized 3 with agenda := [.write 0 1] }.agenda = .write 0 1 :: [] ∧
    { sized 3 with agenda := [.reset] }.agenda = .reset :: [] ∧
    { issued 0x00 (sized 3) with agenda := [.engine] }.agenda = .engine :: [] ∧ (issued 0x00 (sized 3)).agenda = [] ∧
    (busy { sized 3 with agenda := [.engine] } = false ∧ { sized 3 with agenda := [.engine] }.agenda = .engine :: []) ∧
    (busy (sized 3) = false ∧ (sized 3).agenda = []) := by decide
theorem witness_GmulIsFieldMultiplication : (0x01 : Byte) ≠ 0 ∧ gmul 0x01 0x01 = 0x01 := by decide
theorem witness_RconDoublesFromOneToThirtySix : 0 < 9 ∧ 8 < 9 := by decide
theorem witness_KeyExpansionFollowsTheAlgorithm : (7 : Fin 8).val < nkOf .aes256 ∧ (3 : Fin 8).val < nkOf .aes128 ∧
    (nkOf .aes128 ≤ 4 ∧ 43 < 4 * (nrOf .aes128 + 1)) ∧ (nkOf .aes192 ≤ 6 ∧ 51 < 4 * (nrOf .aes192 + 1)) ∧
    (nkOf .aes256 ≤ 12 ∧ 59 < 4 * (nrOf .aes256 + 1)) ∧ 0 < 10 ∧ 9 < 10 := by decide
/-- For every obligation whose only hypothesis is `KeyLengthOf` (ExpandKeyWritesTheSchedule, EncBlockEnciphersState,
DecBlockDeciphersState). -/
theorem witness_KeyLengthOf : KeyLengthOf .aes128 (keyed 16 keyK1) ∧ KeyLengthOf .aes192 (keyed 24 keyK2) ∧
    KeyLengthOf .aes256 (keyed 32 keyK3) := by decide
theorem witness_RoundKeyFileAfterACommand :
    (exec .expandKey (keyed 16 keyK1) = .next (result .expandKey (keyed 16 keyK1)) ∧ usesKey .expandKey = true ∧
      KeyLengthOf .aes128 (keyed 16 keyK1) ∧ (result .expandKey (keyed 16 keyK1)).status.err = 0) ∧
    (exec .ecbDec badM19 = .next (result .ecbDec badM19) ∧ KeyLengthOf .aes128 badM19 ∧
      (result .ecbDec badM19).status.err = 4) ∧
    (exec .encBlock (keyed 0 keyK1) = .next (result .encBlock (keyed 0 keyK1)) ∧
      (result .encBlock (keyed 0 keyK1)).status.err = 2) ∧
    (exec .subBytes (sized 3) = .next (result .subBytes (sized 3)) ∧ usesKey .subBytes = false) :=
  ⟨⟨exec_result _ _, rfl, rfl, by decide +kernel⟩, ⟨exec_result _ _, rfl, by decide +kernel⟩,
    ⟨exec_result _ _, by decide +kernel⟩, exec_result _ _, rfl⟩
theorem witness_StateIsColumnMajor : blockSp.toBytes.length = 16 := by decide
theorem witness_AddRoundKeyXorsTheRoundKey : (KeyLengthOf .aes128 (keyed 16 keyK1) ∧ 10 ≤ nrOf .aes128) ∧
    (KeyLengthOf .aes256 (keyed 32 keyK3) ∧ 14 ≤ nrOf .aes256) ∧ 0 ≤ nrOf .aes192 := by decide
theorem witness_AddRoundKeyChecksTheRoundRange : (KeyLengthOf .aes128 (keyed 16 keyK1) ∧ nrOf .aes128 < 11) ∧
    (KeyLengthOf .aes192 (keyed 24 keyK2) ∧ nrOf .aes192 < 13) ∧ (KeyLengthOf .aes256 (keyed 32 keyK3) ∧ nrOf .aes256 < 15) ∧
    NoKeyLength (keyed 0 keyK1) ∧ NoKeyLength (keyed 33 keyK1) := by decide
/-- The range of round numbers of CipherRunsTheRoundsInOrder and InvCipherRunsTheRoundsBackwards. -/
theorem witness_CipherRunsTheRoundsInOrder : 1 ≤ 1 ∧ 1 ≤ nrOf .aes128 - 1 ∧ 13 ≤ nrOf .aes256 - 1 := by decide
theorem witness_SequencerComputesTheCiphers : 0 < nrOf .aes128 - 1 ∧ 12 < nrOf .aes256 - 1 := by decide
theorem witness_DecryptionUndoesEncryption : KeyLengthOf .aes128 (keyed 16 keyK1) ∧
    exec .encBlock (keyed 16 keyK1) = .next (result .encBlock (keyed 16 keyK1)) := ⟨rfl, exec_result _ _⟩
theorem witness_PadAppendsItsOwnLength : ([] : List Byte).length % 16 = 0 ∧ (List.replicate 15 (0 : Byte)).length % 16 ≠ 0 := by
  decide
/-- EcbEncEnciphersEachBlock and CbcEncChainsCiphertextBlocks: the empty stream and the longest that fits. -/
theorem witness_EcbEncEnciphersEachBlock :
    (KeyLengthOf .aes128 (keyed 16 keyK1) ∧ streamLen (keyed 16 keyK1) < bufBytes (keyed 16 keyK1)) ∧
    (KeyLengthOf .aes128 small15 ∧ streamLen small15 < bufBytes small15 ∧ bufBytes small15 = streamLen small15 + 1) := by decide
theorem witness_EcbDecDeciphersEachBlock : KeyLengthOf .aes128 ecbM1 ∧ streamLen ecbM1 = bufBytes ecbM1 ∧
    streamLen ecbM1 % 16 = 0 ∧ IsEcbDecryption ecbM1 .aes128 (blockSp.toBytes ++ blockTens.toBytes) ∧
    padOk (blockSp.toBytes ++ blockTens.toBytes) = true := by decide +kernel
theorem witness_CbcDecUnchainsCiphertextBlocks : KeyLengthOf .aes128 cbcM6 ∧ streamLen cbcM6 = bufBytes cbcM6 ∧
    streamLen cbcM6 % 16 = 0 ∧ IsCbcDecryption cbcM6 .aes128 plainM6 ∧ padOk plainM6 = true := by decide +kernel
theorem witness_PaddingFailureShowsNoDecryptedByte :
    (KeyLengthOf .aes128 badM19 ∧ streamLen badM19 ≤ bufBytes badM19 ∧ streamLen badM19 % 16 = 0 ∧
      IsEcbDecryption badM19 .aes128 (List.replicate 16 0) ∧ IsCbcDecryption badM19 .aes128 (List.replicate 16 0) ∧
      padOk (List.replicate 16 0) = false) ∧
    (KeyLengthOf .aes128 (keyed 16 keyK1) ∧ streamLen (keyed 16 keyK1) ≤ bufBytes (keyed 16 keyK1) ∧
      IsEcbDecryption (keyed 16 keyK1) .aes128 [] ∧ padOk [] = false) := by decide +kernel
theorem witness_ModeRoundTripRestoresTheStream : KeyLengthOf .aes128 small15 ∧ streamLen small15 < bufBytes small15 ∧
    (exec .ecbEnc small15 = .next (result .ecbEnc small15) ∧ (copied .ecbEnc).inLen = (result .ecbEnc small15).outLen ∧
      ∀ a, a < (result .ecbEnc small15).outLen.toNat →
        bufferByte (copied .ecbEnc) .inBuf a = bufferByte (result .ecbEnc small15) .outBuf a) ∧
    (exec .cbcEnc small15 = .next (result .cbcEnc small15) ∧ (copied .cbcEnc).inLen = (result .cbcEnc small15).outLen ∧
      (copied .cbcEnc).key = small15.key ∧ (copied .cbcEnc).iv = small15.iv ∧
      (copied .cbcEnc).bufBlocks = small15.bufBlocks ∧ (copied .cbcEnc).ctrl.keylen = small15.ctrl.keylen ∧
      ∀ a, a < (result .cbcEnc small15).outLen.toNat →
        bufferByte (copied .cbcEnc) .inBuf a = bufferByte (result .cbcEnc small15) .outBuf a) :=
  ⟨rfl, by decide, ⟨exec_result _ _, by unfold copied; rfl, by decide +kernel⟩, exec_result _ _, by unfold copied; rfl,
    by unfold copied; rfl, by unfold copied; rfl, by unfold copied; rfl, by unfold copied; rfl, by decide +kernel⟩
/-- Two plaintext blocks equal to each other and to the pad block. -/
theorem witness_ChainingSpreadsAChangeForwardOnly :
    (KeyLengthOf .aes128 tens32 ∧ streamLen tens32 < bufBytes tens32 ∧ exec .ecbEnc tens32 = .next (result .ecbEnc tens32) ∧
      0 < streamLen tens32 / 16 + 1 ∧ 2 < streamLen tens32 / 16 + 1 ∧ paddedBlock tens32 0 = paddedBlock tens32 2) ∧
    (1 < [blockSp, blockSp].length ∧ [blockSp, blockSp][1]? ≠ some blockTens) ∧
    (0 < [blockSp, blockSp].length ∧ [blockSp, blockSp][0]? ≠ some blockTens) :=
  ⟨⟨rfl, by decide, exec_result _ _, by decide, by decide, by decide +kernel⟩, by decide, by decide⟩
theorem witness_InvalidKeyLengthIsRejected : usesKey .cbcDec = true ∧ usesKey .expandKey = true ∧ NoKeyLength (keyed 0 keyK1) ∧
    NoKeyLength (keyed 15 keyK1) ∧ NoKeyLength (keyed 255 keyK1) := by decide
theorem witness_OverlongStreamIsRejected : KeyLengthOf .aes128 { keyed 16 keyK1 with inLen := 64 } ∧
    bufBytes { keyed 16 keyK1 with inLen := 64 } ≤ streamLen { keyed 16 keyK1 with inLen := 64 } ∧
    bufBytes { keyed 16 keyK1 with inLen := 65 } < streamLen { keyed 16 keyK1 with inLen := 65 } := by decide
theorem witness_UnalignedCiphertextIsRejected : KeyLengthOf .aes128 { keyed 16 keyK1 with inLen := 63 } ∧
    streamLen { keyed 16 keyK1 with inLen := 63 } ≤ bufBytes { keyed 16 keyK1 with inLen := 63 } ∧
    streamLen { keyed 16 keyK1 with inLen := 63 } % 16 ≠ 0 ∧ exec .cbcEnc small15 = .next (result .cbcEnc small15) :=
  ⟨rfl, by decide, by decide, exec_result _ _⟩
/-- FirstApplicableErrorIsReported and EveryCommandCompletes: a command, a mode command that fails, an illegal word. -/
theorem witness_EveryCommandCompletes : busyMachine.pending = some 0x02 ∧
    ((issued 0x13 (sized 3)).pending = some 0x13 ∧ decode 0x13 = .ok .cbcDec ∧ isModeCommand .cbcDec = true ∧
      (result .cbcDec (issued 0x13 (sized 3))).status.err = 2) ∧
    ((issued 0x1010 (sized 3)).pending = some 0x1010 ∧ legal 0x1010 = false) :=
  ⟨rfl, ⟨rfl, rfl, rfl, by decide +kernel⟩, rfl, rfl⟩
theorem witness_FirstApplicableErrorIsReported : (issued 0xF26 (keyed 16 keyK1)).pending = some 0xF26 ∧
    completionCode 0xF26 (issued 0xF26 (keyed 16 keyK1)) = 6 ∧ (issued 0 (sized 3)).pending = some 0 :=
  ⟨rfl, by decide +kernel, rfl⟩
theorem witness_WriteToCmdIssues : busy (sized 3) = false ∧ busy { sized 3 with status := ⟨true, true, 6⟩ } = false := by decide
theorem witness_CommandsWriteOnlyTheirResults :
    (exec .ecbEnc small15 = .next (result .ecbEnc small15) ∧ writesBlock .ecbEnc = false) ∧
    (exec .encBlock (keyed 16 keyK1) = .next (result .encBlock (keyed 16 keyK1)) ∧ isModeCommand .encBlock = false) ∧
    (exec .ecbDec badM19 = .next (result .ecbDec badM19) ∧ (result .ecbDec badM19).status.err = 4) ∧
    (exec (.addRoundKey 11) (keyed 16 keyK1) = .next (result (.addRoundKey 11) (keyed 16 keyK1)) ∧
      (result (.addRoundKey 11) (keyed 16 keyK1)).status.err = 6) :=
  ⟨⟨exec_result _ _, rfl⟩, ⟨exec_result _ _, rfl⟩, ⟨exec_result _ _, by decide +kernel⟩, exec_result _ _, by decide +kernel⟩
theorem witness_InterruptFollowsCompletion :
    (busy (issued 0x20 (sized 3)) = true ∧ engineTurn (issued 0x20 (sized 3)) = .next (result .subBytes (issued 0x20 (sized 3)))) ∧
    (2 : Word).getLsbD 1 = true ∧ busy (sized 3) = false ∧ hostFault (hostWrite 0x00014 0 (sized 3)) = true ∧
    (busy busyMachine = true ∧ (0x00000 : BitVec 18) ≠ 0x00008) := 
  ⟨⟨rfl, exec_result .subBytes _⟩, by decide, by decide, by decide +kernel, by decide⟩
theorem witness_BusErrorsHaveNoEffect :
    ((1 : BitVec 18).toNat % 4 ≠ 0 ∧ (0x3FFFF : BitVec 18).toNat % 4 ≠ 0) ∧
    (∀ n ∈ [0x14, 0x1F, 0x60, 0xFF, 0x1F0, 0xFFFF, 0x10040, 0x1FFFF, 0x20040, 0x3FFFF], ¬Mapped (bufBytes (sized 3)) n) ∧
    (∀ n ∈ [0x10, 0x100, 0x1EC, 0x20000, 0x2003C], ReadOnly n ∧ n % 4 = 0 ∧ Mapped (bufBytes (sized 3)) n) ∧
    (∀ n ∈ [0, 0xC, 0x20, 0x5C, 0x10000, 0x1003C], ¬ReadOnly n ∧ n % 4 = 0 ∧ Mapped (bufBytes (sized 3)) n) := by decide
theorem witness_ReadsReturnTheRegisters : busy (sized 3) = false ∧ 4 * 0 < bufBytes (sized 3) ∧ 4 * 15 < bufBytes (sized 3) := by
  decide
theorem witness_ReadAfterWriteReturnsTheValue : busy (sized 3) = false ∧
    ∀ n ∈ [0x20, 0x5C, 0x10000, 0x1003C], n % 4 = 0 ∧ (0x20 ≤ n ∧ n < 0x60 ∨ 0x10000 ≤ n ∧ n < 0x10000 + bufBytes (sized 3)) := by
  decide
theorem witness_WriteLeavesOtherLocations : busy (sized 3) = false ∧ (0x10000 : BitVec 18) ≠ 0x00004 ∧
    (0x10000 : BitVec 18) ≠ 0x10004 ∧ (0x10000 : BitVec 18) ≠ 0x00004 := by decide
theorem witness_WritesWhileBusyAreDropped : busy busyMachine = true ∧
    ∀ n ∈ [0x00000, 0x00004, 0x0000C, 0x0005C, 0x1003C], (BitVec.ofNat 18 n).toNat % 4 = 0 ∧
      Mapped (bufBytes busyMachine) (BitVec.ofNat 18 n).toNat ∧ ¬ReadOnly (BitVec.ofNat 18 n).toNat ∧
      BitVec.ofNat 18 n ≠ 0x00008 := by decide
theorem witness_ReadsHaveNoSideEffects : busy busyMachine = true ∧
    (∀ n ∈ [0x00050, 0x0005C, 0x00100, 0x001EC, 0x20000, 0x2003C], (BitVec.ofNat 18 n).toNat = n ∧ n % 4 = 0 ∧
      (0x50 ≤ n ∧ n < 0x60 ∨ 0x100 ≤ n ∧ n < 0x1F0 ∨ 0x20000 ≤ n ∧ n < 0x20000 + bufBytes busyMachine)) ∧
    (0x00010 : BitVec 18).toNat = 0x10 := by decide
theorem witness_OperandsHoldUntilTheEngineStep :
    busy { busyMachine with agenda := [.write 0x50 1, .read 8, .engine] } = true ∧
    (∀ e ∈ [Event.write 0x50 1, .read 8], isHostAccess e = true) ∧
    { busyMachine with agenda := [.write 0x50 1, .read 8, .engine] }.agenda = [.write 0x50 1, .read 8] ++ [.engine] :=
  ⟨rfl, by decide, rfl⟩
theorem witness_ResetClearsEveryRegister : resetState busyMachine = resetState busyMachine ∧ State.reset = State.reset := ⟨rfl, rfl⟩
theorem witness_EveryStepKeepsTheInvariant :
    (issued 0x20 (sized 3)).Inv ∧ step (issued 0x20 (sized 3)) = .next (result .subBytes (issued 0x20 (sized 3))) :=
  ⟨⟨by decide, by decide, by simp [issued, issueCommand, sized, State.reset], by simp [issued, issueCommand, sized, State.reset],
    by decide, by decide⟩, exec_result .subBytes _⟩
theorem witness_PendingCommandCompletesInTime : (busy busyMachine = true ∧ ∀ e ∈ busyMachine.agenda, e ≠ Event.reset) ∧
    (busy { busyMachine with agenda := [.read 8, .write 0 0] } = true ∧
      ∀ e ∈ { busyMachine with agenda := [.read 8, .write 0 0] }.agenda, e ≠ Event.reset) := by decide
theorem witness_ResultsDependOnlyOnOperands :
    SameInputs .encBlock (keyed 16 keyK1) { keyed 16 keyK1 with iv := ivSp, outLen := 9, inLen := 5 } ∧
    exec .encBlock (keyed 16 keyK1) = .next (result .encBlock (keyed 16 keyK1)) ∧
    SameInputs .cbcEnc small15 { small15 with block := blockSp, status := ⟨true, true, 3⟩ } ∧
    exec .cbcEnc small15 = .next (result .cbcEnc small15) :=
  ⟨⟨fun _ => ⟨rfl, rfl⟩, fun _ => rfl, fun h => absurd h (by decide), fun h => absurd h (by decide)⟩, exec_result _ _,
    ⟨fun _ => ⟨rfl, rfl⟩, fun h => absurd h (by decide), fun _ => rfl, fun _ => ⟨rfl, rfl, fun _ _ => rfl⟩⟩, exec_result _ _⟩

end Sys2Proof.Tests
end

section
/-! PROOFS. Products of polynomials over GF(2) and `gmul` (R12, R110): `polyMul` distributes over XOR and gives up the
lowest coefficient of its second factor, as one turn of `gmulLoop` does. -/
namespace Sys2Proof.Proofs.Gf
open Sys2Proof.Machine Sys2Proof.Spec

/-! ## The partial products of `polyMul` -/

/-- The sum of the first `n` shifted copies of `a` that `polyMul a b` adds up. -/
def polyMulBelow : Nat → BitVec 16 → BitVec 16 → BitVec 16
  | 0, _, _ => 0#16
  | n + 1, a, b => polyMulBelow n a b ^^^ if b.getLsbD n then a <<< n else 0#16

theorem polyMulBelow_eq_foldl (n : Nat) (a b : BitVec 16) :
    polyMulBelow n a b = (List.range n).foldl (fun p i => if b.getLsbD i then p ^^^ (a <<< i) else p) 0#16 := by
  induction n with
  | zero => rfl
  | succ n ih => cases h : b.getLsbD n <;> simp [polyMulBelow, List.range_succ, ih, h]

theorem polyMul_eq_polyMulBelow (a b : BitVec 16) : polyMul a b = polyMulBelow 8 a b :=
  (polyMulBelow_eq_foldl 8 a b).symm

theorem polyMulBelow_xor_left (n : Nat) (a a' b : BitVec 16) :
    polyMulBelow n (a ^^^ a') b = polyMulBelow n a b ^^^ polyMulBelow n a' b := by
  induction n with
  | zero => simp [polyMulBelow]
  | succ n ih =>
    cases h : b.getLsbD n
    · simp [polyMulBelow, ih, h]
    · simp only [polyMulBelow, ih, h, if_true, BitVec.shiftLeft_xor_distrib]
      ac_rfl

theorem polyMulBelow_xor_right (n : Nat) (a b b' : BitVec 16) :
    polyMulBelow n a (b ^^^ b') = polyMulBelow n a b ^^^ polyMulBelow n a b' := by
  induction n with
  | zero => simp [polyMulBelow]
  | succ n ih =>
    have hbit : (if (b ^^^ b').getLsbD n then a <<< n else 0#16) =
        (if b.getLsbD n then a <<< n else 0#16) ^^^ if b'.getLsbD n then a <<< n else 0#16 := by
      rw [BitVec.getLsbD_xor]
      cases b.getLsbD n <;> cases b'.getLsbD n <;> simp
    simp only [polyMulBelow, ih, hbit]
    ac_rfl

/-- The lowest coefficient of `b` comes off, and the others multiply `x * a`. -/
theorem polyMulBelow_succ_peel (n : Nat) (a b : BitVec 16) :
    polyMulBelow (n + 1) a b = (if b.getLsbD 0 then a else 0#16) ^^^ polyMulBelow n (a <<< 1) (b >>> 1) := by
  induction n with
  | zero => simp [polyMulBelow]
  | succ n ih =>
    rw [polyMulBelow, ih, polyMulBelow, BitVec.getLsbD_ushiftRight, ← BitVec.shiftLeft_add, Nat.add_comm n 1,
      BitVec.xor_assoc]

/-! ## The laws of `polyMul` -/

theorem polyMul_xor_left (a a' b : BitVec 16) : polyMul (a ^^^ a') b = polyMul a b ^^^ polyMul a' b := by
  simp only [polyMul_eq_polyMulBelow, polyMulBelow_xor_left]

theorem polyMul_xor_right (a b b' : BitVec 16) : polyMul a (b ^^^ b') = polyMul a b ^^^ polyMul a b' := by
  simp only [polyMul_eq_polyMulBelow, polyMulBelow_xor_right]

@[simp] theorem polyMul_zero_left (b : BitVec 16) : polyMul 0#16 b = 0#16 := by
  simpa using polyMul_xor_left 0#16 0#16 b

@[simp] theorem polyMul_zero_right (a : BitVec 16) : polyMul a 0#16 = 0#16 := by
  simpa using polyMul_xor_right a 0#16 0#16

/-- A byte has no coefficient 8, so nothing is lost when the others move down by one. -/
theorem polyMul_byte_peel (a : BitVec 16) (b : Byte) :
    polyMul a (b.setWidth 16) =
      (if b.getLsbD 0 then a else 0#16) ^^^ polyMul (a <<< 1) ((b >>> 1).setWidth 16) := by
  have hbit8 : polyMulBelow 9 a (b.setWidth 16) = polyMulBelow 8 a (b.setWidth 16) := by
    rw [polyMulBelow]
    simp
  have hshift : (b >>> 1).setWidth 16 = b.setWidth 16 >>> 1 := by
    ext i hi
    simp
  rw [polyMul_eq_polyMulBelow, ← hbit8, polyMulBelow_succ_peel, hshift, polyMul_eq_polyMulBelow]
  simp

/-! ## `gmul` computes modulo 0x11B -/

/-- The bit that leaves the byte in a left shift by one is coefficient 8 of `x * a`. -/
theorem setWidth_shiftLeft_one (a : Byte) :
    a.setWidth 16 <<< 1 = (a <<< 1).setWidth 16 ^^^ if a.getLsbD 7 then 0x0100#16 else 0#16 := by
  have htop (i : Nat) :
      (if a.getLsbD 7 then 0x0100#16 else 0#16).getLsbD i = (decide (i = 8) && a.getLsbD 7) := by
    rw [show 0x0100#16 = BitVec.twoPow 16 8 from rfl]
    cases a.getLsbD 7 <;> simp [BitVec.getLsbD_twoPow, eq_comm]
  refine BitVec.eq_of_getLsbD_eq fun i hi => ?_
  rw [BitVec.getLsbD_xor, htop]
  obtain hlt | rfl | hgt := Nat.lt_trichotomy i 8
  · have hin : i - 1 < 8 := by omega
    simp [hi, hlt, hlt.ne, BitVec.getLsbD_eq_getElem hin]
  · simp
  · have hout : a.getLsbD (i - 1) = false := BitVec.getLsbD_of_ge _ _ (by omega)
    simp [hgt.ne', hgt.not_gt, hout]

/-- R110's shift step: it takes 0x11B from `x * a` when that has degree 8. -/
theorem setWidth_shiftLeft_eq_gmulShift (a : Byte) :
    a.setWidth 16 <<< 1 = (gmulShift a).setWidth 16 ^^^ if a.getLsbD 7 then 0x011B#16 else 0#16 := by
  rw [setWidth_shiftLeft_one, gmulShift]
  split
  · simp [BitVec.setWidth_xor, BitVec.xor_assoc]
  · rfl

/-- What a turn's shift takes from the product: 0x11B times the second factor, when `x * a` has degree 8. -/
theorem polyMul_shiftLeft_eq_gmulShift (a b : Byte) :
    polyMul (a.setWidth 16 <<< 1) (b.setWidth 16) =
      polyMul 0x011B#16 ((if a.getLsbD 7 then b else 0#8).setWidth 16) ^^^
        polyMul ((gmulShift a).setWidth 16) (b.setWidth 16) := by
  rw [setWidth_shiftLeft_eq_gmulShift, polyMul_xor_left, BitVec.xor_comm]
  cases a.getLsbD 7 <;> simp

/-- The loop's invariant: with `n` turns to go and only `n` coefficients left in `b`, the result is `a * b + p` up to a
multiple of 0x11B. A turn that reduces `x * a` adds what is left of `b` to the quotient. -/
theorem gmulLoop_congr (n : Nat) (a b p : Byte) (hb : b >>> n = 0#8) :
    ∃ q : Byte, polyMul (a.setWidth 16) (b.setWidth 16) ^^^ p.setWidth 16 =
      polyMul 0x011B#16 (q.setWidth 16) ^^^ (gmulLoop n a b p).setWidth 16 := by
  induction n generalizing a b p with
  | zero =>
    have hb0 : b = 0#8 := by simpa using hb
    exact ⟨0#8, by simp [hb0, gmulLoop]⟩
  | succ n ih =>
    have hb' : b >>> 1 >>> n = 0#8 := by rw [← BitVec.shiftRight_add, Nat.add_comm, hb]
    obtain ⟨q, hq⟩ := ih (gmulShift a) (b >>> 1) (if b.getLsbD 0 then p ^^^ a else p) hb'
    refine ⟨(if a.getLsbD 7 then b >>> 1 else 0#8) ^^^ q, ?_⟩
    have hacc : (if b.getLsbD 0 then a.setWidth 16 else 0#16) ^^^ p.setWidth 16 =
        (if b.getLsbD 0 then p ^^^ a else p).setWidth 16 := by
      split
      · rw [BitVec.setWidth_xor, BitVec.xor_comm]
      · simp
    calc polyMul (a.setWidth 16) (b.setWidth 16) ^^^ p.setWidth 16
      _ = polyMul (a.setWidth 16 <<< 1) ((b >>> 1).setWidth 16) ^^^
          (if b.getLsbD 0 then p ^^^ a else p).setWidth 16 := by
        rw [polyMul_byte_peel, ← hacc]
        ac_rfl
      _ = polyMul 0x011B#16 ((if a.getLsbD 7 then b >>> 1 else 0#8).setWidth 16) ^^^
          (polyMul 0x011B#16 (q.setWidth 16) ^^^ (gmulLoop (n + 1) a b p).setWidth 16) := by
        rw [polyMul_shiftLeft_eq_gmulShift, BitVec.xor_assoc, hq, gmulLoop]
      _ = _ := by rw [BitVec.setWidth_xor, polyMul_xor_right, BitVec.xor_assoc]

/-- Settles O10: `gmul` is `gmulLoop` from accumulator 0, so the loop's invariant with eight turns to go is the claim. -/
theorem gmulIsTheReducedPolynomialProduct : Obligations.GmulIsTheReducedPolynomialProduct := by
  intro a b
  obtain ⟨q, hq⟩ := gmulLoop_congr 8 a b 0#8 (BitVec.ushiftRight_eq_zero le_rfl)
  exact ⟨q, by simpa [gmul] using hq⟩

end Sys2Proof.Proofs.Gf
end

section
/-! PROOFS. The checks of the bus slave port (R63-R66): the mapped addresses are the located ones, the read-only addresses
are those whose location is not writable, and so which accesses the port rejects. -/
namespace Sys2Proof.Proofs.Bus
open Sys2Proof.Machine Sys2Proof.Spec

/-! ## The address map (R61, R65) -/

theorem locate_isSome_iff (size n : Nat) : (locate size n).isSome ↔ Mapped size n := by
  simp only [locate, Option.isSome_map, List.find?_isSome, addressMap, inRegion, List.exists_mem_cons_iff,
    List.not_mem_nil, false_and, exists_false, or_false, Bool.and_eq_true, decide_eq_true_eq]
  omega

theorem exists_locate_of_mapped {size n : Nat} (h : Mapped size n) : ∃ loc, locate size n = some loc :=
  Option.isSome_iff_exists.mp ((locate_isSome_iff size n).mpr h)

theorem locate_eq_none_of_not_mapped {size n : Nat} (h : ¬Mapped size n) : locate size n = none := by
  rwa [← Option.not_isSome_iff_eq_none, locate_isSome_iff]

/-- R8's bound on BUF_BYTES keeps IN_BUF below the address where OUT_BUF begins. -/
theorem isWritable_iff_not_readOnly {size n : Nat} {loc : Location} (hs : size ≤ 0x10000)
    (h : locate size n = some loc) : isWritable loc = true ↔ ¬ReadOnly n := by
  obtain ⟨r, hr, hb, hl, rfl⟩ := locate_some h
  simp only [addressMap, List.mem_cons, List.not_mem_nil, or_false] at hr
  rcases hr with rfl | rfl | rfl | rfl | rfl | rfl | rfl | rfl | rfl | rfl | rfl <;>
    simp only [isWritable, ReadOnly, true_iff, Bool.false_eq_true, false_iff] at * <;> omega

/-! ## The answers of the port (R66, R257) -/

@[simp] theorem hostFault_respond_read (w : Word) (e : Bool) (s : State) : hostFault (respond (.read w e) s) = e := rfl

@[simp] theorem hostFault_respond_write (e : Bool) (s : State) : hostFault (respond (.write e) s) = e := rfl

theorem hostRead_located_no_fault {a : BitVec 18} {s : State} {loc : Location} (ha : a.toNat % 4 = 0)
    (hl : locate (bufBytes s) a.toNat = some loc) : hostFault (hostRead a s) = false := by
  rw [hostRead_located ha hl]
  split <;> simp

theorem hostWrite_located_no_fault {a : BitVec 18} {d : Word} {s : State} {loc : Location} (ha : a.toNat % 4 = 0)
    (hl : locate (bufBytes s) a.toNat = some loc) (hw : isWritable loc = true) :
    hostFault (hostWrite a d s) = false := by
  rw [hostWrite_located ha hl hw]
  split <;> simp

/-- A write that is misaligned or has no writable location to land in is answered with an error, busy or not. -/
theorem hostWrite_rejected {a : BitVec 18} {d : Word} {s : State}
    (h : a.toNat % 4 ≠ 0 ∨ ∀ loc, locate (bufBytes s) a.toNat = some loc → isWritable loc = false) :
    hostWrite a d s = respond (.write true) s := by
  unfold hostWrite
  rcases h with hm | hw
  · simp [(misaligned_iff a).mpr hm]
  · cases hl : locate (bufBytes s) a.toNat with
    | none => simp
    | some loc => simp [hw loc hl]

theorem hostRead_cmd (s : State) : hostRead 0x00004 s = respond (.read 0 false) s := by
  have hl : locate (bufBytes s) (0x00004 : BitVec 18).toNat = some .cmd := rfl
  rw [hostRead_located (by decide) hl]
  simp [isResult, readValue]

/-- Settles O48: an unmapped address has no location and a read-only one no writable location, so the port rejects the
access; an address that is mapped, and for a write not read-only, has one, and the port answers without error. -/
theorem busErrorsHaveNoEffect : Obligations.BusErrorsHaveNoEffect := by
  intro s a d
  refine ⟨fun h => hostRead_rejected (h.imp_right locate_eq_none_of_not_mapped), fun h => ?_, fun ⟨ha, hmap⟩ => ?_,
    hostRead_cmd s, fun ⟨ha, hmap, hro⟩ => ?_⟩
  · refine hostWrite_rejected (h.imp_right fun hrej loc hl => ?_)
    have hmap : Mapped (bufBytes s) a.toNat := (locate_isSome_iff _ _).mp (Option.isSome_of_eq_some hl)
    have hro : ReadOnly a.toNat := hrej.resolve_left (not_not_intro hmap)
    exact Bool.eq_false_iff.mpr fun hw => (isWritable_iff_not_readOnly (bufBytes_le s) hl).mp hw hro
  · obtain ⟨loc, hl⟩ := exists_locate_of_mapped hmap
    exact hostRead_located_no_fault ha hl
  · obtain ⟨loc, hl⟩ := exists_locate_of_mapped hmap
    exact hostWrite_located_no_fault ha hl ((isWritable_iff_not_readOnly (bufBytes_le s) hl).mpr hro)

end Sys2Proof.Proofs.Bus
end

section
/-! PROOFS. The command word as a number, field by field (R90): which words are legal (R94), and what an illegal word
written to CMD does (R95). -/
namespace Sys2Proof.Proofs.Encoding
open Sys2Proof.Machine Sys2Proof.Spec

/-! ## The fields of a command word (R90) -/

theorem opcField_toNat (c : Word) : (opcField c).toNat = c.toNat % 256 := by
  simp [opcField, BitVec.extractLsb'_toNat]

theorem ridxField_toNat (c : Word) : (ridxField c).toNat = c.toNat / 256 % 16 := by
  simp [ridxField, BitVec.extractLsb'_toNat, Nat.shiftRight_eq_div_pow]

theorem reservedField_toNat (c : Word) : (reservedField c).toNat = c.toNat / 4096 := by
  have hc : c.toNat < 2 ^ 32 := c.isLt
  simp only [reservedField, BitVec.extractLsb'_toNat, Nat.shiftRight_eq_div_pow]
  omega

/-! ## Legal words (R94) -/

theorem plainOpcodes_contains_iff (x : BitVec 8) :
    plainOpcodes.contains x = true ↔ x.toNat ∈ plainOpcodes.map BitVec.toNat := by
  rw [List.contains_iff_mem, List.mem_map_of_injective BitVec.toNat_injective]

theorem lt_of_mem_plainOpcodes {n : Nat} (h : n ∈ plainOpcodes.map BitVec.toNat) : n < 256 := by
  obtain ⟨x, -, rfl⟩ := List.mem_map.mp h
  exact x.isLt

/-- R94's predicate with the fields of the word as numbers. -/
theorem legal_iff (c : Word) :
    legal c = true ↔ c.toNat / 4096 = 0 ∧
      (c.toNat % 256 ∈ plainOpcodes.map BitVec.toNat ∧ c.toNat / 256 % 16 = 0 ∨ c.toNat % 256 = 0x26) := by
  simp only [legal, Bool.and_eq_true, Bool.or_eq_true, beq_iff_eq, plainOpcodes_contains_iff, ← BitVec.toNat_inj,
    opcField_toNat, ridxField_toNat, reservedField_toNat, BitVec.reduceToNat]

/-- Settles O4: with no reserved bit a word is its OPC plus 256 times its RIDX, and RIDX is 0 or OPC is 0x26. -/
theorem legalWordsAreThoseListed : Obligations.LegalWordsAreThoseListed := by
  intro c
  change legal c = true ↔ c.toNat ∈ plainOpcodes.map BitVec.toNat ∨ ∃ r, r < 16 ∧ c.toNat = 0x26 + 256 * r
  rw [legal_iff]
  constructor
  · rintro ⟨hres, ⟨hopc, hridx⟩ | hopc⟩
    · have hc : c.toNat % 256 = c.toNat := by omega
      exact .inl (hc ▸ hopc)
    · exact .inr ⟨c.toNat / 256, by omega, by omega⟩
  · rintro (hopc | ⟨r, hr, hc⟩)
    · have hlt : c.toNat < 256 := lt_of_mem_plainOpcodes hopc
      exact ⟨by omega, .inl ⟨by rwa [Nat.mod_eq_of_lt hlt], by omega⟩⟩
    · exact ⟨by omega, .inr (by omega)⟩

/-! ## Illegal words (R95) -/

theorem decode_of_illegal {c : Word} (h : legal c = false) : decode c = .error (rejectReason c) := by
  simp [decode, h]

/-- The engine's turn with an illegal word pending is the completion of R242, whatever the word. -/
theorem engineTurn_illegal {s : State} {c : Word} (hp : s.pending = some c) (hc : legal c = false) :
    engineTurn s = .next (raise false .illegalCmd s) := by
  simp [engineTurn, hp, decode_of_illegal hc]

/-- R251: a write to CMD while idle issues the word, legal or not. -/
theorem hostWrite_cmd_idle {s : State} (c : Word) (hs : busy s = false) :
    hostWrite 0x00004 c s = respond (.write false) (issueCommand c s) := by
  have hl : locate (bufBytes s) (0x00004 : BitVec 18).toNat = some .cmd := rfl
  rw [hostWrite_located (by decide) hl rfl]
  simp [hs, writeLocation]

theorem pending_eq_none_of_not_busy {s : State} (hs : busy s = false) : s.pending = none := by
  simpa [busy] using hs

/-- Settles O6: the write issues the word, and the completion brings PENDING back to the value it has while idle. -/
theorem illegalWordChangesOnlyStatus : Obligations.IllegalWordChangesOnlyStatus := by
  intro s c hs hc
  have hwrite := hostWrite_cmd_idle c hs
  refine ⟨hwrite, ?_⟩
  rw [hwrite, engineTurn_illegal rfl hc, pending_eq_none_of_not_busy hs]
  rfl

end Sys2Proof.Proofs.Encoding
end

section
/-! PROOFS. The key schedule (R132) and what a command leaves in RK0-RK59 (R135, R136): every word appended to a schedule
meets the recurrence and keeps the earlier words, and a key-using command either writes the whole file or fails first. -/
namespace Sys2Proof.Proofs.KeySchedule
open Sys2Proof.Machine Sys2Proof.Spec

/-! ## The word functions, byte by byte (R117-R119) -/

theorem byte_rotWord (x : Word) : ∀ j : Fin 4, byte (rotWord x) j.val = byte x ((j.val + 1) % 4)
  | 0 => byte_word_0 ..
  | 1 => byte_word_1 ..
  | 2 => byte_word_2 ..
  | 3 => byte_word_3 ..

theorem byte_subWord (x : Word) : ∀ j : Fin 4, byte (subWord x) j.val = sbox (byte x j.val)
  | 0 => byte_word_0 ..
  | 1 => byte_word_1 ..
  | 2 => byte_word_2 ..
  | 3 => byte_word_3 ..

theorem byte_rconWord (i : Nat) :
    byte (rconWord i) 0 = rcon i ∧ byte (rconWord i) 1 = 0 ∧ byte (rconWord i) 2 = 0 ∧ byte (rconWord i) 3 = 0 := by
  simp [rconWord]

/-! ## The recurrence (R132) -/

/-- Every word of `w` after the first `nk` is the one R132 computes from the words before it. -/
def FollowsRecurrence (nk : Nat) (w : List Word) : Prop :=
  ∀ i, nk ≤ i → i < w.length → w.getD i 0 = w.getD (i - nk) 0 ^^^ expandTemp nk w i

/-- `temp` reads one word, `w[i-1]`. -/
theorem expandTemp_congr {nk i : Nat} {w w' : List Word} (h : w.getD (i - 1) 0 = w'.getD (i - 1) 0) :
    expandTemp nk w i = expandTemp nk w' i := by
  simp only [expandTemp, h]

theorem expandNext_getD_lt {nk i j : Nat} {w : List Word} (hi : i < w.length) :
    (expandNext nk w j).getD i 0 = w.getD i 0 :=
  List.getD_append _ _ _ _ hi

theorem expandNext_getD_length (nk j : Nat) (w : List Word) :
    (expandNext nk w j).getD w.length 0 = w.getD (j - nk) 0 ^^^ expandTemp nk w j := by
  simp [expandNext]

@[simp] theorem expandNext_length (nk j : Nat) (w : List Word) : (expandNext nk w j).length = w.length + 1 := by
  simp [expandNext]

/-- The two words that R132 reads for `w[i]` are among the words there before it, so appending keeps them. -/
theorem followsRecurrence_expandNext {nk : Nat} {w : List Word} (h : FollowsRecurrence nk w) (hpos : 0 < nk) :
    FollowsRecurrence nk (expandNext nk w w.length) := by
  intro i hnk hi
  rw [expandNext_length] at hi
  have hkept {j : Nat} (hj : j < w.length) : (expandNext nk w w.length).getD j 0 = w.getD j 0 := expandNext_getD_lt hj
  rw [hkept (by omega : i - nk < w.length), expandTemp_congr (hkept (by omega : i - 1 < w.length))]
  obtain hlt | rfl : i < w.length ∨ i = w.length := by omega
  · rw [hkept hlt, h i hnk hlt]
  · exact expandNext_getD_length nk w.length w

theorem foldl_expandNext_length (nk n k : Nat) (w : List Word) :
    ((List.range' k n).foldl (expandNext nk) w).length = w.length + n := by
  induction n generalizing k w with
  | zero => rfl
  | succ n ih =>
    rw [List.range'_succ, List.foldl_cons, ih, expandNext_length]
    omega

theorem foldl_expandNext_getD_lt {nk n k i : Nat} {w : List Word} (hi : i < w.length) :
    ((List.range' k n).foldl (expandNext nk) w).getD i 0 = w.getD i 0 := by
  induction n generalizing k w with
  | zero => rfl
  | succ n ih =>
    rw [List.range'_succ, List.foldl_cons, ih (by rw [expandNext_length]; omega), expandNext_getD_lt hi]

theorem followsRecurrence_foldl_expandNext {nk : Nat} {w : List Word} (h : FollowsRecurrence nk w) (hpos : 0 < nk)
    (n : Nat) : FollowsRecurrence nk ((List.range' w.length n).foldl (expandNext nk) w) := by
  induction n generalizing w with
  | zero => exact h
  | succ n ih =>
    rw [List.range'_succ, List.foldl_cons, ← expandNext_length nk w.length w]
    exact ih (followsRecurrence_expandNext h hpos)

/-! ## KeyExpansion (R132) -/

theorem nkOf_pos (v : Variant) : 0 < nkOf v := by cases v <;> decide

theorem nkOf_le_scheduleWords (v : Variant) : nkOf v ≤ scheduleWords v := by cases v <;> decide

/-- R131: the first Nk words of a schedule. -/
@[simp] theorem keyWords_length (key : Vector Word 8) (v : Variant) : (key.toList.take (nkOf v)).length = nkOf v := by
  cases v <;> simp [nkOf]

theorem keyExpansion_length (key : Vector Word 8) (v : Variant) : (keyExpansion key v).length = 4 * (nrOf v + 1) := by
  rw [keyExpansion, foldl_expandNext_length, keyWords_length]
  exact Nat.add_sub_cancel' (nkOf_le_scheduleWords v)

theorem keyExpansion_getD_key (key : Vector Word 8) {v : Variant} {i : Fin 8} (hi : i.val < nkOf v) :
    (keyExpansion key v).getD i.val 0 = key[i] := by
  rw [keyExpansion, foldl_expandNext_getD_lt (by rwa [keyWords_length])]
  simp [List.getD_eq_getElem?_getD, hi]

theorem keyExpansion_followsRecurrence (key : Vector Word 8) (v : Variant) :
    FollowsRecurrence (nkOf v) (keyExpansion key v) := by
  have hkey : FollowsRecurrence (nkOf v) (key.toList.take (nkOf v)) := by
    intro i hnk hi
    rw [keyWords_length] at hi
    omega
  have hfold := followsRecurrence_foldl_expandNext hkey (nkOf_pos v) (scheduleWords v - nkOf v)
  rwa [keyWords_length] at hfold

/-- Settles O14: the schedule's recurrence is the statement's, with `temp` written out. -/
theorem keyExpansionFollowsTheAlgorithm : Obligations.KeyExpansionFollowsTheAlgorithm := by
  refine ⟨?_, byte_rotWord, byte_subWord, fun i _ => byte_rconWord i⟩
  rintro key v w rfl
  refine ⟨keyExpansion_length key v, fun i => keyExpansion_getD_key key, fun i hnk hi => ?_⟩
  exact keyExpansion_followsRecurrence key v i hnk (by rwa [keyExpansion_length])

/-! ## The round-key file after a command (R135, R136) -/

/-- The codes a command that has expanded the key can end with: ERR_NONE, ERR_INVALID_PADDING. -/
def AfterExpansion (code : BitVec 4) : Prop := code = 0 ∨ code = 4

/-- What a key-using command from `s` can leave in RK: the expansion of KEY, or, with the code of a failure before
expansion, what was there. -/
inductive RkOutcome (s t : State) : Prop where
  | expanded (v : Variant) (hv : selectedVariant s = some v) (hrk : t.rk = (expandInto v s).rk)
    (hcode : AfterExpansion t.status.err)
  | kept (hrk : t.rk = s.rk) (hcode : ¬AfterExpansion t.status.err)

theorem rkOutcome_raise {m : Bool} {code : ErrCode} {s : State} (h : ¬AfterExpansion (errBits code)) :
    RkOutcome s (raise m code s) :=
  .kept (raise_rk ..) (by simpa using h)

theorem rkOutcome_complete {u s : State} {v : Variant} (hv : selectedVariant s = some v)
    (hrk : u.rk = (expandInto v s).rk) : RkOutcome s (complete .none u) :=
  .expanded v hv hrk (.inl rfl)

theorem rkOutcome_finishDecrypt {s : State} {v : Variant} (q : List Byte) (hv : selectedVariant s = some v) :
    RkOutcome s (finishDecrypt q (expandInto v s)) := by
  unfold finishDecrypt
  split
  · exact rkOutcome_complete hv rfl
  · exact .expanded v hv rfl (.inr rfl)

theorem not_afterExpansion_invalidKeyLength : ¬AfterExpansion (errBits .invalidKeyLength) := by
  simp [AfterExpansion, errBits]

/-- R249: the checks of an encrypt command come before its expansion. -/
theorem not_afterExpansion_of_encryptCheck {s : State} {e : ErrCode} (h : encryptCheck s = .error e) :
    ¬AfterExpansion (errBits e) := by
  rw [encryptCheck_eq] at h
  split at h
  · cases h
    exact not_afterExpansion_invalidKeyLength
  · split at h
    · cases h
    · cases h
      simp [AfterExpansion, errBits]

/-- R249: the checks of a decrypt command come before its expansion. -/
theorem not_afterExpansion_of_decryptCheck {s : State} {e : ErrCode} (h : decryptCheck s = .error e) :
    ¬AfterExpansion (errBits e) := by
  unfold decryptCheck at h
  split at h
  · cases h
    exact not_afterExpansion_invalidKeyLength
  · split_ifs at h <;> cases h <;> simp [AfterExpansion, errBits]

/-- R136, with the checks of R249 before the expansion: what each key-using command does to RK. -/
theorem rkOutcome_of_usesKey {i : Instr} {s t : State} (hi : usesKey i = true) (h : exec i s = .next t) :
    RkOutcome s t := by
  cases i with
  | expandKey | encBlock | decBlock =>
    simp only [exec, execExpandKey, execEncBlock, execDecBlock] at h
    split at h <;> cases h
    · exact rkOutcome_raise not_afterExpansion_invalidKeyLength
    next hv => exact rkOutcome_complete hv rfl
  | addRoundKey ridx =>
    simp only [exec, execAddRoundKey] at h
    split at h
    · cases h
      exact rkOutcome_raise not_afterExpansion_invalidKeyLength
    next hv =>
      split at h <;> cases h
      · exact rkOutcome_raise (by simp [AfterExpansion, errBits])
      · exact rkOutcome_complete hv rfl
  | ecbEnc | cbcEnc =>
    simp only [exec, execEcbEnc, execCbcEnc] at h
    split at h <;> cases h
    next hc => exact rkOutcome_raise (not_afterExpansion_of_encryptCheck hc)
    next hc =>
      obtain ⟨hv, -⟩ := encryptCheck_ok hc
      exact rkOutcome_complete hv rfl
  | ecbDec | cbcDec =>
    simp only [exec, execEcbDec, execCbcDec] at h
    split at h <;> cases h
    next hc => exact rkOutcome_raise (not_afterExpansion_of_decryptCheck hc)
    next hc =>
      obtain ⟨hv, -⟩ := decryptCheck_ok hc
      exact rkOutcome_finishDecrypt _ hv
  | subBytes | invSubBytes | shiftRows | invShiftRows | mixColumns | invMixColumns => cases hi

theorem rk_of_not_usesKey {i : Instr} {s t : State} (hi : usesKey i = false) (h : exec i s = .next t) :
    t.rk = s.rk := by
  cases i with
  | subBytes | invSubBytes | shiftRows | invShiftRows | mixColumns | invMixColumns =>
    cases h
    rfl
  | expandKey | encBlock | decBlock | ecbEnc | ecbDec | cbcEnc | cbcDec | addRoundKey => cases hi

theorem expandInto_holdsSchedule (v : Variant) (s : State) : HoldsSchedule (schedule s v) v (expandInto v s).rk :=
  rkFile_getElem _ v

/-- Settles O16: a key-using command has one of the two outcomes for RK, told apart by its code. -/
theorem roundKeyFileAfterACommand : Obligations.RoundKeyFileAfterACommand := by
  intro i s t h
  refine ⟨fun v hi hv hcode => ?_, fun ⟨hzero, hpad⟩ => ?_, fun hi => rk_of_not_usesKey hi h⟩
  · cases rkOutcome_of_usesKey hi h with
    | expanded v' hv' hrk _ =>
      obtain rfl : v' = v := Option.some.inj (hv'.symm.trans (selectedVariant_eq_some.mpr hv))
      exact hrk ▸ expandInto_holdsSchedule v' s
    | kept _ hfail => exact absurd hcode hfail
  · cases hi : usesKey i with
    | false => exact rk_of_not_usesKey hi h
    | true =>
      cases rkOutcome_of_usesKey hi h with
      | expanded _ _ _ hcode => exact (hcode.elim hzero hpad).elim
      | kept hrk _ => exact hrk

end Sys2Proof.Proofs.KeySchedule
end

section
/-! PROOFS. `gmul` as a product (R110): XOR distributes over it on both sides and it commutes with the shift step, from
which it is commutative and associative. -/
namespace Sys2Proof.Proofs.GmulLaws
open Sys2Proof.Machine

/-! ## Bilinearity -/

theorem gmulShift_eq_xor (a : Byte) : gmulShift a = a <<< 1 ^^^ if a.getLsbD 7 then 0x1B#8 else 0#8 := by
  rw [gmulShift]
  split
  · rfl
  · exact BitVec.xor_zero.symm

theorem gmulShift_xor (a b : Byte) : gmulShift (a ^^^ b) = gmulShift a ^^^ gmulShift b := by
  have hreduce : (if (a ^^^ b).getLsbD 7 then 0x1B#8 else 0#8) =
      (if a.getLsbD 7 then 0x1B#8 else 0#8) ^^^ if b.getLsbD 7 then 0x1B#8 else 0#8 := by
    rw [BitVec.getLsbD_xor]
    cases a.getLsbD 7 <;> cases b.getLsbD 7 <;> rfl
  simp only [gmulShift_eq_xor, hreduce, BitVec.shiftLeft_xor_distrib]
  ac_rfl

/-- A map of bytes that XOR and the multiplication by `x` go through. -/
structure IsLinear (f : Byte → Byte) : Prop where
  map_xor : ∀ a b, f (a ^^^ b) = f a ^^^ f b
  map_shift : ∀ a, f (gmulShift a) = gmulShift (f a)

theorem IsLinear.map_zero {f : Byte → Byte} (hf : IsLinear f) : f 0#8 = 0#8 := by
  simpa using hf.map_xor 0#8 0#8

/-- A linear map goes through every turn of the loop. -/
theorem IsLinear.map_gmulLoop {f : Byte → Byte} (hf : IsLinear f) (n : Nat) (a b p : Byte) :
    f (gmulLoop n a b p) = gmulLoop n (f a) b (f p) := by
  induction n generalizing a b p with
  | zero => rfl
  | succ n ih => rw [gmulLoop, gmulLoop, ih, hf.map_shift, apply_ite f, hf.map_xor]

theorem IsLinear.map_gmul {f : Byte → Byte} (hf : IsLinear f) (a b : Byte) : f (gmul a b) = gmul (f a) b := by
  simpa [gmul, hf.map_zero] using hf.map_gmulLoop 8 a b 0#8

theorem gmulLoop_xor_left (n : Nat) (a a' b p p' : Byte) :
    gmulLoop n (a ^^^ a') b (p ^^^ p') = gmulLoop n a b p ^^^ gmulLoop n a' b p' := by
  induction n generalizing a a' b p p' with
  | zero => rfl
  | succ n ih =>
    simp only [gmulLoop, gmulShift_xor, ← ih]
    congr 1
    split
    · ac_rfl
    · rfl

theorem gmul_xor_left (a a' b : Byte) : gmul (a ^^^ a') b = gmul a b ^^^ gmul a' b :=
  gmulLoop_xor_left 8 a a' b 0#8 0#8

theorem isLinear_gmulShift : IsLinear gmulShift := ⟨gmulShift_xor, fun _ => rfl⟩

theorem isLinear_gmul_left (b : Byte) : IsLinear (gmul · b) :=
  ⟨fun a a' => gmul_xor_left a a' b, fun a => (isLinear_gmulShift.map_gmul a b).symm⟩

/-! ## The laws of the product -/

@[simp] theorem gmul_one_left : ∀ a : Byte, gmul 1#8 a = a := by decide

/-- The first factor runs through a linear map, so it is enough to know that 1 is neutral. -/
theorem gmul_comm (a b : Byte) : gmul a b = gmul b a := by
  calc gmul a b
    _ = gmul (gmul 1#8 a) b := by rw [gmul_one_left]
    _ = gmul (gmul 1#8 b) a := (isLinear_gmul_left b).map_gmul 1#8 a
    _ = gmul b a := by rw [gmul_one_left]

theorem gmul_xor_right (a b b' : Byte) : gmul a (b ^^^ b') = gmul a b ^^^ gmul a b' := by
  simp only [gmul_comm a, gmul_xor_left]

theorem gmul_assoc (a b c : Byte) : gmul (gmul a b) c = gmul a (gmul b c) := by
  rw [gmul_comm a b, gmul_comm a (gmul b c)]
  exact ((isLinear_gmul_left a).map_gmul b c).symm

@[simp] theorem gmul_zero_left (a : Byte) : gmul 0#8 a = 0#8 := (isLinear_gmul_left a).map_zero

end Sys2Proof.Proofs.GmulLaws
end

section
/-! PROOFS. The round engine's primitives (R150-R156), entry by entry: the column-major State, the byte-wise and the
row-wise primitives, the product of a matrix and a column, and the six commands that apply them to STATE (R158-R163). -/
namespace Sys2Proof.Proofs.RoundEngine
open Sys2Proof.Machine Sys2Proof.Spec Sys2Proof.Proofs.GmulLaws

/-! ## The column-major State (R150) -/

theorem toBytes_getD_column_major (s : Block) (r c : Fin 4) : s.toBytes.getD (r.val + 4 * c.val) 0 = s.entry r c := by
  fin_cases c <;> fin_cases r <;> rfl

theorem toBytes_getD_eq_entry (s : Block) (i : Fin 16) :
    s.toBytes.getD i.val 0 = s.entry (Fin.ofNat 4 i.val) (Fin.ofNat 4 (i.val / 4)) := by
  have hi : i.val % 4 + 4 * (i.val / 4 % 4) = i.val := by omega
  rw [← toBytes_getD_column_major, Fin.val_ofNat, Fin.val_ofNat, hi]

theorem entry_blockAt (x : List Byte) (r c : Fin 4) : (blockAt x 0).entry r c = x.getD (r.val + 4 * c.val) 0 := by
  have hlt : r.val + 4 * c.val < 16 := by omega
  rw [← toBytes_getD_column_major, blockAt_toBytes_getD x 0 _ hlt, Nat.mul_zero, Nat.zero_add]

/-- A string of 16 bytes is one block. -/
theorem toBytes_blockAt {x : List Byte} (hx : x.length = 16) : (blockAt x 0).toBytes = x := by
  have hone : blocksOf x = [blockAt x 0] := by simp [blocksOf, hx]
  calc (blockAt x 0).toBytes
    _ = bytesOf (blocksOf x) := by simp [hone, bytesOf]
    _ = x := bytesOf_blocksOf x (by rw [hx])

/-- Settles O17: the register layout is the definition of `Block.entry`, and the maps between bytes and State follow it. -/
theorem stateIsColumnMajor : Obligations.StateIsColumnMajor :=
  ⟨fun _ _ _ => rfl, toBytes_getD_eq_entry, entry_blockAt, fun _ => toBytes_blockAt⟩

/-! ## The primitive commands (R158-R163) -/

/-- The frame of the six commands: the primitive on STATE, then the completion with ERR_NONE. -/
theorem runPrimitive_eq (f : Block → Block) (s : State) :
    runPrimitive f s = .next { s with block := f s.block, pending := none, status := completedStatus s 0 } := rfl

/-! ## SubBytes and ShiftRows (R151-R154) -/

theorem entry_subBytes (b : Block) (r c : Fin 4) : (subBytes b).entry r c = sbox (b.entry r c) :=
  entry_ofEntries ..

theorem entry_invSubBytes (b : Block) (r c : Fin 4) : (invSubBytes b).entry r c = invSbox (b.entry r c) :=
  entry_ofEntries ..

/-- Settles O18: the primitives are built entry by entry, and the commands have the common frame. -/
theorem subBytesCommandsReplaceEachByte : Obligations.SubBytesCommandsReplaceEachByte :=
  ⟨entry_subBytes, entry_invSubBytes, fun s => ⟨runPrimitive_eq subBytes s, runPrimitive_eq invSubBytes s⟩⟩

theorem entry_shiftRows (b : Block) (r c : Fin 4) : (shiftRows b).entry r c = b.entry r (c + r) :=
  entry_ofEntries ..

theorem entry_invShiftRows (b : Block) (r c : Fin 4) : (invShiftRows b).entry r c = b.entry r (c - r) :=
  entry_ofEntries ..

theorem fin_sub_eq_ofNat (c r : Fin 4) : c - r = Fin.ofNat 4 (c.val + 4 - r.val) := by
  apply Fin.ext
  rw [Fin.val_sub, Fin.val_ofNat]
  omega

/-- Settles O19: addition and subtraction of column numbers in `Fin 4` are those modulo 4. -/
theorem shiftRowsCommandsRotateRows : Obligations.ShiftRowsCommandsRotateRows := by
  refine ⟨entry_shiftRows, fun b r c => ?_, fun s => ⟨runPrimitive_eq shiftRows s, runPrimitive_eq invShiftRows s⟩⟩
  rw [entry_invShiftRows, fin_sub_eq_ofNat]

/-! ## MixColumns (R155, R156) -/

/-- A row of coefficients times a column of bytes. -/
def dot (k a : Fin 4 → Byte) : Byte := gmul (k 0) (a 0) ^^^ gmul (k 1) (a 1) ^^^ gmul (k 2) (a 2) ^^^ gmul (k 3) (a 3)

/-- The entry at row `r`, column `j` of a matrix given as its rows. -/
def coeff (m : List (List Byte)) (r j : Fin 4) : Byte := (m.getD r.val []).getD j.val 0

theorem rowTimesColumn_eq_dot (m : List (List Byte)) (s : Block) (r c : Fin 4) :
    rowTimesColumn m s r c = dot (coeff m r) (s.entry · c) := rfl

theorem mixRow_eq_dot (a : Fin 4 → Byte) : ∀ r, mixRow r (a 0) (a 1) (a 2) (a 3) = dot (coeff mixMatrix r) a
  | 0 | 1 | 2 | 3 => by simp [mixRow, dot, coeff, mixMatrix]

theorem invMixRow_eq_dot (a : Fin 4 → Byte) : ∀ r, invMixRow r (a 0) (a 1) (a 2) (a 3) = dot (coeff invMixMatrix r) a
  | 0 | 1 | 2 | 3 => rfl

theorem entry_mixColumns (b : Block) (r c : Fin 4) : (mixColumns b).entry r c = rowTimesColumn mixMatrix b r c := by
  rw [mixColumns, entry_ofEntries, rowTimesColumn_eq_dot, ← mixRow_eq_dot]

theorem entry_invMixColumns (b : Block) (r c : Fin 4) :
    (invMixColumns b).entry r c = rowTimesColumn invMixMatrix b r c := by
  rw [invMixColumns, entry_ofEntries, rowTimesColumn_eq_dot, ← invMixRow_eq_dot]

/-- A row times the product of a matrix and a column is the product of the row and the matrix, times the column. -/
theorem dot_dot (k : Fin 4 → Byte) (m : Fin 4 → Fin 4 → Byte) (a : Fin 4 → Byte) :
    dot k (fun i => dot (m i) a) = dot (fun j => dot k (m · j)) a := by
  simp only [dot, gmul_xor_left, gmul_xor_right, gmul_assoc]
  ac_rfl

/-- Row `r` of the unit matrix. -/
def unitRow (r j : Fin 4) : Byte := if r = j then 1#8 else 0#8

theorem dot_unitRow (a : Fin 4 → Byte) : ∀ r, dot (unitRow r) a = a r
  | 0 | 1 | 2 | 3 => by simp [dot, unitRow]

/-- R156's matrix times R155's is the unit matrix. -/
theorem invMixMatrix_mul_mixMatrix :
    ∀ r j, dot (coeff invMixMatrix r) (coeff mixMatrix · j) = unitRow r j := by decide

theorem invMixColumns_mixColumns (b : Block) : invMixColumns (mixColumns b) = b := by
  refine block_ext fun r c => ?_
  calc (invMixColumns (mixColumns b)).entry r c
    _ = dot (coeff invMixMatrix r) (fun i => dot (coeff mixMatrix i) (b.entry · c)) := by
      simp only [entry_invMixColumns, entry_mixColumns, rowTimesColumn_eq_dot]
    _ = dot (unitRow r) (b.entry · c) := by simp only [dot_dot, invMixMatrix_mul_mixMatrix]
    _ = b.entry r c := dot_unitRow (b.entry · c) r

/-- Settles O20: both primitives are products with their matrix, and the product of the two matrices is the unit matrix. -/
theorem mixColumnsCommandsMultiplyColumns : Obligations.MixColumnsCommandsMultiplyColumns :=
  ⟨entry_mixColumns, entry_invMixColumns, invMixColumns_mixColumns,
    fun s => ⟨runPrimitive_eq mixColumns s, runPrimitive_eq invMixColumns s⟩⟩

end Sys2Proof.Proofs.RoundEngine
end

section
/-! PROOFS. The round sequences of the block cipher (R180, R181) as chains of states: the fold of `cipher` cut after each
round, and the fold of `invCipher` cut before each round number, so that the state of round `r` comes from that of round
`r + 1`. -/
namespace Sys2Proof.Proofs.BlockCipher
open Sys2Proof.Machine Sys2Proof.Spec

/-! ## Cipher (R180) -/

/-- The state of Cipher after AddRoundKey(0) and the middle rounds 1 .. `r`. -/
def encState (w : List Word) (b : Block) (r : Nat) : Block := (List.range' 1 r).foldl (encRound w) (addRoundKey b w 0)

theorem encState_succ (w : List Word) (b : Block) (r : Nat) :
    encState w b (r + 1) = encRound w (encState w b r) (r + 1) := by
  simp only [encState, List.range'_1_concat, List.foldl_append, List.foldl_cons, List.foldl_nil, Nat.add_comm 1 r]

theorem cipher_eq_encFinal (w : List Word) (nr : Nat) (b : Block) :
    cipher w nr b = encFinal w nr (encState w b (nr - 1)) := rfl

/-- Settles O24: the chain is the fold of `cipher` after each round. -/
theorem cipherRunsTheRoundsInOrder : Obligations.CipherRunsTheRoundsInOrder := by
  refine fun w v b => ⟨encState w b, rfl, fun r hr _ => ?_, cipher_eq_encFinal w (nrOf v) b⟩
  obtain ⟨k, rfl⟩ := Nat.exists_eq_add_of_le' hr
  exact encState_succ w b k

/-! ## InvCipher (R181) -/

/-- The state of InvCipher after AddRoundKey(Nr) and the middle rounds Nr-1 down to `r`. -/
def decState (w : List Word) (nr : Nat) (b : Block) (r : Nat) : Block :=
  (List.range' r (nr - r)).foldr (fun round s => decRound w s round) (addRoundKey b w nr)

theorem decState_self (w : List Word) (nr : Nat) (b : Block) : decState w nr b nr = addRoundKey b w nr := by
  simp [decState]

theorem decState_eq_decRound (w : List Word) (b : Block) {nr r : Nat} (hr : r < nr) :
    decState w nr b r = decRound w (decState w nr b (r + 1)) r := by
  have hlen : nr - r = (nr - (r + 1)) + 1 := by omega
  simp only [decState, hlen, List.range'_succ, List.foldr_cons]

theorem invCipher_eq_decFinal (w : List Word) (nr : Nat) (b : Block) :
    invCipher w nr b = decFinal w (decState w nr b 1) := by
  rw [invCipher, List.foldl_reverse, decState]

/-- Settles O25: a fold over the reversed rounds is a fold from the right, which gives up the lowest round first. -/
theorem invCipherRunsTheRoundsBackwards : Obligations.InvCipherRunsTheRoundsBackwards :=
  fun w v b => ⟨decState w (nrOf v) b, decState_self w (nrOf v) b,
    fun _ _ hle => decState_eq_decRound w b (by omega), invCipher_eq_decFinal w (nrOf v) b⟩

end Sys2Proof.Proofs.BlockCipher
end

section
/-! PROOFS. The results of a command as a function of its operands (R186): the checks, the streams and the schedule agree
when the operands do, and each way a command can end leaves the same results when it is given the same values. -/
namespace Sys2Proof.Proofs.Operands
open Sys2Proof.Machine Sys2Proof.Spec Sys2Proof.Proofs.KeySchedule

/-! ## Two ends of one command -/

section
variable {i : Instr} {n : Nat}

/-- A mode command reads the key and leaves STATE alone. -/
theorem modeCommand_operands (hi : isModeCommand i = true) : usesKey i = true ∧ writesBlock i = false := by
  cases i with
  | ecbEnc | ecbDec | cbcEnc | cbcDec => exact ⟨rfl, rfl⟩
  | expandKey | encBlock | decBlock | subBytes | invSubBytes | shiftRows | invShiftRows | mixColumns | invMixColumns
  | addRoundKey => cases hi

theorem sameResults_raise {m : Bool} {code : ErrCode} (s u : State) (hcode : ¬AfterExpansion (errBits code))
    (hm : isModeCommand i = true → m = true) : SameResults i n (raise m code s) (raise m code u) := by
  have herr : (raise m code s).status.err = errBits code := by simp
  refine ⟨by simp, fun _ h0 => ?_, fun _ h => ?_, fun hi => ⟨by simp [hm hi], fun h => ?_⟩⟩
  · exact absurd (.inl (herr ▸ h0)) hcode
  · exact absurd (herr ▸ h) hcode
  · exact absurd (herr ▸ h) hcode

theorem sameResults_complete {code : ErrCode} {p q : State} (hi : isModeCommand i = false)
    (hblock : writesBlock i = true → p.block = q.block) (hrk : usesKey i = true → p.rk = q.rk) :
    SameResults i n (complete code p) (complete code q) :=
  ⟨rfl, fun h _ => hblock h, fun h _ => hrk h, fun h => by simp [hi] at h⟩

/-- Two states agree on OUT_BUF where the same byte string was written to it. -/
theorem memWrite_outByte_congr {x : List Byte} {a : Nat} (p q : State) (ha : a < x.length) :
    bufferByte (memWrite 0 x p) .outBuf a = bufferByte (memWrite 0 x q) .outBuf a := by
  simp [memWrite_outByte, ha]

/-- The end of a mode command that wrote `x`: it covers the input length and OUT_LEN. -/
theorem sameResults_complete_memWrite {code : ErrCode} {len : Nat} {x : List Byte} {p q : State}
    (hi : isModeCommand i = true) (hrk : p.rk = q.rk) (hn : n ≤ x.length) (hlen : len ≤ x.length) :
    SameResults i n (complete code (setOutLen len (memWrite 0 x p))) (complete code (setOutLen len (memWrite 0 x q))) := by
  refine ⟨rfl, fun h => ?_, fun _ _ => hrk, fun _ => ⟨rfl, fun _ a ha => memWrite_outByte_congr p q ?_⟩⟩
  · exact absurd h (by simp [(modeCommand_operands hi).2])
  · have hmod : (BitVec.ofNat 17 len).toNat ≤ len := by
      rw [BitVec.toNat_ofNat]
      exact Nat.mod_le ..
    have ha' : a < n ∨ a < (BitVec.ofNat 17 len).toNat := ha
    omega

end

/-! ## Equal operands, equal values -/

theorem selectedVariant_congr {s u : State} (h : s.ctrl.keylen = u.ctrl.keylen) : selectedVariant s = selectedVariant u :=
  congrArg variantOf h

theorem expandInto_rk_congr (v : Variant) {s u : State} (h : s.key = u.key) : (expandInto v s).rk = (expandInto v u).rk :=
  congrArg (fun key => rkFile (keyExpansion key v) v) h

/-- Two states agree on the operands every mode command reads (R203-R206). -/
structure SameStream (s u : State) : Prop where
  keylen : s.ctrl.keylen = u.ctrl.keylen
  key : s.key = u.key
  inLen : s.inLen = u.inLen
  bufBlocks : s.bufBlocks = u.bufBlocks
  bytes : ∀ a, a < streamLen s → bufferByte s .inBuf a = bufferByte u .inBuf a

section
variable {s u : State}

theorem sameStream_of_sameInputs {i : Instr} (hi : isModeCommand i = true) (h : SameInputs i s u) : SameStream s u := by
  obtain ⟨hkey, -, -, hstream⟩ := h
  obtain ⟨hkeylen, hkey⟩ := hkey (modeCommand_operands hi).1
  obtain ⟨hlen, hblocks, hbytes⟩ := hstream hi
  exact ⟨hkeylen, hkey, hlen, hblocks, hbytes⟩

theorem SameStream.streamLen_eq (h : SameStream s u) : streamLen s = streamLen u := congrArg BitVec.toNat h.inLen

theorem SameStream.bufBytes_eq (h : SameStream s u) : bufBytes s = bufBytes u := by rw [bufBytes, bufBytes, h.bufBlocks]

theorem SameStream.streamBytes_eq (h : SameStream s u) : streamBytes s = streamBytes u := by
  rw [streamBytes, streamBytes, ← h.streamLen_eq]
  refine List.map_congr_left fun k hk => ?_
  simpa using h.bytes k (List.mem_range.mp hk)

theorem SameStream.encryptCheck_eq (h : SameStream s u) : encryptCheck s = encryptCheck u := by
  rw [encryptCheck, encryptCheck, selectedVariant_congr h.keylen, h.bufBytes_eq, h.streamLen_eq]

theorem SameStream.decryptCheck_eq (h : SameStream s u) : decryptCheck s = decryptCheck u := by
  rw [decryptCheck, decryptCheck, selectedVariant_congr h.keylen, h.bufBytes_eq, h.streamLen_eq]

end

/-! ## The common form of the mode commands (R203-R206) -/

/-- A mode command: its checks, then what it does under the variant they select. -/
def runMode (check : State → Except ErrCode Variant) (finish : Variant → State → State) (s : State) :
    Host.Outcome State Fault Refusal :=
  match check s with
  | .error code => .next (raise true code s)
  | .ok v => .next (finish v s)

/-- The key expansion and the output of an encrypt command. -/
def encryptWith (mode : Variant → State → List Block → List Block) (v : Variant) (s : State) : State :=
  finishEncrypt (encryptBytes (mode v s) s) (expandInto v s)

/-- The key expansion and the output, or the padding failure, of a decrypt command. -/
def decryptWith (mode : Variant → State → List Block → List Block) (v : Variant) (s : State) : State :=
  finishDecrypt (decryptBytes (mode v s) s) (expandInto v s)

theorem exec_ecbEnc (s : State) : exec .ecbEnc s = runMode encryptCheck (encryptWith ecbEncBlocks) s := rfl
theorem exec_cbcEnc (s : State) : exec .cbcEnc s = runMode encryptCheck (encryptWith cbcEncBlocks) s := rfl
theorem exec_ecbDec (s : State) : exec .ecbDec s = runMode decryptCheck (decryptWith ecbDecBlocks) s := rfl
theorem exec_cbcDec (s : State) : exec .cbcDec s = runMode decryptCheck (decryptWith cbcDecBlocks) s := rfl

section
variable {i : Instr} {n : Nat} {s u t t' : State} {v : Variant}

theorem runMode_sameResults {check : State → Except ErrCode Variant} {finish : Variant → State → State}
    (hcheck : check s = check u) (hcode : ∀ code, check s = .error code → ¬AfterExpansion (errBits code))
    (hfinish : ∀ v, check s = .ok v → SameResults i n (finish v s) (finish v u))
    (h : runMode check finish s = .next t) (h' : runMode check finish u = .next t') : SameResults i n t t' := by
  rw [runMode] at h h'
  rw [← hcheck] at h'
  cases hc : check s with
  | error code =>
    rw [hc] at h h'
    cases h
    cases h'
    exact sameResults_raise s u (hcode code hc) fun _ => rfl
  | ok v =>
    rw [hc] at h h'
    cases h
    cases h'
    exact hfinish v hc

theorem finishEncrypt_sameResults {c : List Byte} (hi : isModeCommand i = true) (hs : SameStream s u)
    (hc : c.length = paddedLen (streamLen s)) :
    SameResults i (streamLen s) (finishEncrypt c (expandInto v s)) (finishEncrypt c (expandInto v u)) := by
  have hn : streamLen s ≤ c.length := by
    unfold paddedLen at hc
    omega
  simp only [finishEncrypt, expandInto_streamLen, ← hs.streamLen_eq]
  exact sameResults_complete_memWrite hi (expandInto_rk_congr v hs.key) hn hc.ge

/-- A decrypted stream ends both commands in the same way, with its output or with a padding failure. -/
theorem finishDecrypt_sameResults {q : List Byte} (hi : isModeCommand i = true) (hs : SameStream s u)
    (hq : q.length = streamLen s) :
    SameResults i (streamLen s) (finishDecrypt q (expandInto v s)) (finishDecrypt q (expandInto v u)) := by
  have hrk := expandInto_rk_congr v hs.key
  simp only [finishDecrypt, paddingFailure, expandInto_streamLen, ← hs.streamLen_eq]
  split
  · exact sameResults_complete_memWrite hi hrk hq.ge (by omega)
  · exact sameResults_complete_memWrite hi hrk (by simp) (Nat.zero_le _)

variable {mode : Variant → State → List Block → List Block}

theorem runEncrypt_sameResults (hi : isModeCommand i = true) (hs : SameStream s u)
    (hmode : ∀ v, mode v s = mode v u) (hlength : ∀ v bs, (mode v s bs).length = bs.length)
    (h : runMode encryptCheck (encryptWith mode) s = .next t)
    (h' : runMode encryptCheck (encryptWith mode) u = .next t') : SameResults i (streamLen s) t t' := by
  refine runMode_sameResults hs.encryptCheck_eq (fun _ => not_afterExpansion_of_encryptCheck) (fun v _ => ?_) h h'
  have hbytes : encryptBytes (mode v u) u = encryptBytes (mode v s) s := by
    rw [encryptBytes, encryptBytes, hmode, hs.streamBytes_eq]
  rw [encryptWith, encryptWith, hbytes]
  exact finishEncrypt_sameResults hi hs (encryptBytes_length (hlength v) s)

theorem runDecrypt_sameResults (hi : isModeCommand i = true) (hs : SameStream s u)
    (hmode : ∀ v, mode v s = mode v u) (hlength : ∀ v bs, (mode v s bs).length = bs.length)
    (h : runMode decryptCheck (decryptWith mode) s = .next t)
    (h' : runMode decryptCheck (decryptWith mode) u = .next t') : SameResults i (streamLen s) t t' := by
  refine runMode_sameResults hs.decryptCheck_eq (fun _ => not_afterExpansion_of_decryptCheck) (fun v hc => ?_) h h'
  obtain ⟨-, -, haligned⟩ := decryptCheck_ok hc
  have hbytes : decryptBytes (mode v u) u = decryptBytes (mode v s) s := by
    rw [decryptBytes, decryptBytes, hmode, hs.streamBytes_eq]
  rw [decryptWith, decryptWith, hbytes]
  exact finishDecrypt_sameResults hi hs (decryptBytes_length (hlength v) haligned)

end

/-! ## The other commands -/

section
variable {i : Instr} {n : Nat} {s u t t' : State}

theorem runPrimitive_sameResults {f : Block → Block} (hm : isModeCommand i = false) (hk : usesKey i = false)
    (hblock : s.block = u.block) (h : runPrimitive f s = .next t) (h' : runPrimitive f u = .next t') :
    SameResults i n t t' := by
  cases h
  cases h'
  exact sameResults_complete hm (fun _ => congrArg f hblock) fun h => by simp [hk] at h

/-- R244: every key-using command checks the key length first. -/
theorem exec_of_selectedVariant_none (hk : usesKey i = true) (hv : selectedVariant s = none) :
    exec i s = .next (raise (isModeCommand i) .invalidKeyLength s) := by
  cases i with
  | expandKey | encBlock | decBlock | addRoundKey =>
    simp only [exec, execExpandKey, execEncBlock, execDecBlock, execAddRoundKey, hv, isModeCommand]
  | ecbEnc | cbcEnc => simp only [exec, execEcbEnc, execCbcEnc, encryptCheck, hv, isModeCommand]
  | ecbDec | cbcDec => simp only [exec, execEcbDec, execCbcDec, decryptCheck, hv, isModeCommand]
  | subBytes | invSubBytes | shiftRows | invShiftRows | mixColumns | invMixColumns => cases hk

theorem sameResults_of_selectedVariant_none (hk : usesKey i = true) (hv : selectedVariant s = none)
    (hv' : selectedVariant u = none) (h : exec i s = .next t) (h' : exec i u = .next t') : SameResults i n t t' := by
  rw [exec_of_selectedVariant_none hk hv] at h
  rw [exec_of_selectedVariant_none hk hv'] at h'
  cases h
  cases h'
  exact sameResults_raise s u not_afterExpansion_invalidKeyLength id

end

/-- Settles O60: command by command, the same checks, then the same values written. -/
theorem resultsDependOnlyOnOperands : Obligations.ResultsDependOnlyOnOperands := by
  intro i s u t t' hin h h'
  have ⟨hkeys, hblock, hiv, _⟩ := hin
  cases i with
  | subBytes | invSubBytes | shiftRows | invShiftRows | mixColumns | invMixColumns =>
    exact runPrimitive_sameResults rfl rfl (hblock rfl) h h'
  | expandKey | encBlock | decBlock =>
    obtain ⟨hkeylen, hkey⟩ := hkeys rfl
    have hsel := selectedVariant_congr hkeylen
    cases hv : selectedVariant s with
    | none => exact sameResults_of_selectedVariant_none rfl hv (hsel ▸ hv) h h'
    | some v =>
      simp only [exec, execExpandKey, execEncBlock, execDecBlock, ← hsel, hv] at h h'
      cases h
      cases h'
      exact sameResults_complete rfl (fun hw => by simp [hkey, hblock hw]) fun _ => expandInto_rk_congr v hkey
  | addRoundKey ridx =>
    obtain ⟨hkeylen, hkey⟩ := hkeys rfl
    have hsel := selectedVariant_congr hkeylen
    cases hv : selectedVariant s with
    | none => exact sameResults_of_selectedVariant_none rfl hv (hsel ▸ hv) h h'
    | some v =>
      simp only [exec, execAddRoundKey, ← hsel, hv] at h h'
      by_cases hr : nrOf v < ridx
      · rw [if_pos hr] at h h'
        cases h
        cases h'
        exact sameResults_raise s u (by simp [AfterExpansion, errBits]) id
      · rw [if_neg hr] at h h'
        cases h
        cases h'
        exact sameResults_complete rfl (fun hw => by simp [hkey, hblock hw]) fun _ => expandInto_rk_congr v hkey
  | ecbEnc =>
    have hs := sameStream_of_sameInputs rfl hin
    rw [exec_ecbEnc] at h h'
    exact runEncrypt_sameResults rfl hs (fun v => by rw [ecbEncBlocks, ecbEncBlocks, hs.key])
      (fun v => ecbEncBlocks_length v s) h h'
  | cbcEnc =>
    have hs := sameStream_of_sameInputs rfl hin
    rw [exec_cbcEnc] at h h'
    exact runEncrypt_sameResults rfl hs (fun v => by rw [cbcEncBlocks, cbcEncBlocks, hs.key, hiv rfl])
      (fun v => cbcEncBlocks_length v s) h h'
  | ecbDec =>
    have hs := sameStream_of_sameInputs rfl hin
    rw [exec_ecbDec] at h h'
    exact runDecrypt_sameResults rfl hs (fun v => by rw [ecbDecBlocks, ecbDecBlocks, hs.key])
      (fun v => ecbDecBlocks_length v s) h h'
  | cbcDec =>
    have hs := sameStream_of_sameInputs rfl hin
    rw [exec_cbcDec] at h h'
    exact runDecrypt_sameResults rfl hs (fun v => by rw [cbcDecBlocks, cbcDecBlocks, hs.key, hiv rfl])
      (fun v => cbcDecBlocks_length v s) h h'

end Sys2Proof.Proofs.Operands
end

section
/-! PROOFS. Padding (R200): how many bytes `pad` appends. -/
namespace Sys2Proof.Proofs.Padding
open Sys2Proof.Machine

theorem padLen_of_mod_eq_zero {n : Nat} (h : n % 16 = 0) : padLen n = 16 := if_pos h

theorem padLen_of_mod_ne_zero {n : Nat} (h : n % 16 ≠ 0) : padLen n = 16 - n % 16 := if_neg h

theorem padLen_bounds (n : Nat) : 1 ≤ padLen n ∧ padLen n ≤ 16 := by
  by_cases h : n % 16 = 0
  · rw [padLen_of_mod_eq_zero h]
    decide
  · rw [padLen_of_mod_ne_zero h]
    omega

/-- Settles O30: the number of appended bytes is `padLen`. -/
theorem padAppendsItsOwnLength : Obligations.PadAppendsItsOwnLength := by
  intro m
  obtain ⟨hpos, hle⟩ := padLen_bounds m.length
  exact ⟨padLen m.length, hpos, hle, padLen_of_mod_eq_zero, padLen_of_mod_ne_zero, rfl, pad_length m⟩

end Sys2Proof.Proofs.Padding
end

section
/-! PROOFS. The decrypt commands: the blocks of a decryption (R204, R206) determine the stream the machine decrypts, and a
stream that is not correctly padded ends in PaddingFailure (R209). -/
namespace Sys2Proof.Proofs.Decryption
open Sys2Proof.Machine Sys2Proof.Spec Sys2Proof.Proofs.KeySchedule Sys2Proof.Proofs.Operands

/-! ## The decrypted stream, block by block (R204, R206) -/

theorem blockAt_streamBytes {s : State} {j : Nat} (hj : j < streamLen s / 16) :
    blockAt (streamBytes s) j = inBlock s j := by
  have hbyte {k : Nat} (hk : k < 16 * (j + 1)) : (streamBytes s).getD k 0 = bufferByte s .inBuf k := by
    rw [streamBytes, memRead_getD (by omega), Nat.zero_add]
  simp (disch := omega) only [blockAt, wordAt, inBlock, bufferWord, hbyte]

theorem getElem_blocksOf_streamBytes (s : State) {j : Nat} (hj : j < (blocksOf (streamBytes s)).length) :
    (blocksOf (streamBytes s))[j] = inBlock s j := by
  rw [blocksOf_length, streamBytes_length] at hj
  rw [← blockAt_streamBytes hj]
  simp [blocksOf]

/-- The running IV of block `j` is the ciphertext block before it (R206). -/
theorem getElem_cbcDecrypt (f : Block → Block) (iv : Block) (cs : List Block) (j : Nat) (hj : j < cs.length) :
    (cbcDecrypt f iv cs)[j]'(by rwa [cbcDecrypt_length]) = (f cs[j]).xor (if j = 0 then iv else cs[j - 1]) := by
  induction cs generalizing iv j with
  | nil => cases hj
  | cons c cs ih =>
    cases j with
    | zero => rfl
    | succ j =>
      have htail := ih c j (Nat.lt_of_succ_lt_succ hj)
      cases j <;> exact htail

/-- A stream of whole blocks is the decrypted stream when it has the decrypted blocks. -/
theorem eq_decryptBytes {mode : List Block → List Block} {s : State} {q : List Byte}
    (hmode : ∀ bs, (mode bs).length = bs.length) (hlen : q.length = streamLen s) (haligned : streamLen s % 16 = 0)
    (hblocks : ∀ j (hj : j < (mode (blocksOf (streamBytes s))).length),
      blockAt q j = (mode (blocksOf (streamBytes s)))[j]) :
    q = decryptBytes mode s := by
  have heq : blocksOf q = mode (blocksOf (streamBytes s)) := by
    refine List.ext_getElem ?_ fun j _ hj => ?_
    · rw [hmode, blocksOf_length, blocksOf_length, hlen, streamBytes_length]
    · rw [← hblocks j hj]
      simp [blocksOf]
  rw [decryptBytes, ← heq, bytesOf_blocksOf q (by rw [hlen, haligned])]

section
variable {s : State} {v : Variant} {q : List Byte}

theorem eq_decryptBytes_of_isEcbDecryption (haligned : streamLen s % 16 = 0) (h : IsEcbDecryption s v q) :
    q = decryptBytes (ecbDecBlocks v s) s := by
  obtain ⟨hlen, hblock⟩ := h
  refine eq_decryptBytes (ecbDecBlocks_length v s) hlen haligned fun j hj => ?_
  rw [ecbDecBlocks_length, blocksOf_length, streamBytes_length] at hj
  simp only [ecbDecBlocks, List.getElem_map, getElem_blocksOf_streamBytes, hblock j hj]

theorem eq_decryptBytes_of_isCbcDecryption (haligned : streamLen s % 16 = 0) (h : IsCbcDecryption s v q) :
    q = decryptBytes (cbcDecBlocks v s) s := by
  obtain ⟨hlen, hblock⟩ := h
  refine eq_decryptBytes (cbcDecBlocks_length v s) hlen haligned fun j hj => ?_
  rw [cbcDecBlocks_length] at hj
  have hj' : j < streamLen s / 16 := by rwa [blocksOf_length, streamBytes_length] at hj
  simp only [cbcDecBlocks, getElem_cbcDecrypt _ _ _ j hj, getElem_blocksOf_streamBytes, hblock j hj']

end

/-! ## PaddingFailure (R209) -/

theorem paddingFailure_outByte (s : State) (a : Nat) :
    bufferByte (paddingFailure s) .outBuf a = if a < streamLen s then 0x00 else bufferByte s .outBuf a := by
  rw [paddingFailure, raise_bufferByte, memWrite_outByte]
  by_cases ha : a < streamLen s <;> simp [ha]

theorem finishDecrypt_of_not_padOk {q : List Byte} (s : State) (h : padOk q = false) :
    finishDecrypt q s = paddingFailure s := by
  rw [finishDecrypt, h]
  rfl

theorem runMode_of_ok {check : State → Except ErrCode Variant} {s : State} {v : Variant}
    (finish : Variant → State → State) (h : check s = .ok v) : runMode check finish s = .next (finish v s) := by
  rw [runMode, h]

/-- A decrypt command that passes its checks and finds the decrypted stream badly padded. -/
theorem exec_eq_paddingFailure {i : Instr} {s : State} {v : Variant} {q : List Byte} (hcheck : decryptCheck s = .ok v)
    (hq : i = .ecbDec ∧ IsEcbDecryption s v q ∨ i = .cbcDec ∧ IsCbcDecryption s v q) (hpad : padOk q = false) :
    exec i s = .next (paddingFailure (expandInto v s)) := by
  obtain ⟨-, -, haligned⟩ := decryptCheck_ok hcheck
  obtain ⟨rfl, hdec⟩ | ⟨rfl, hdec⟩ := hq
  · rw [eq_decryptBytes_of_isEcbDecryption haligned hdec] at hpad
    rw [exec_ecbDec, runMode_of_ok _ hcheck, decryptWith, finishDecrypt_of_not_padOk _ hpad]
  · rw [eq_decryptBytes_of_isCbcDecryption haligned hdec] at hpad
    rw [exec_cbcDec, runMode_of_ok _ hcheck, decryptWith, finishDecrypt_of_not_padOk _ hpad]

/-- Settles O37: the command is the key expansion followed by PaddingFailure. -/
theorem paddingFailureShowsNoDecryptedByte : Obligations.PaddingFailureShowsNoDecryptedByte := by
  intro s v q i hkey hfits haligned hq hpad
  have hcheck := decryptCheck_of_fits (selectedVariant_eq_some.mpr hkey) hfits haligned
  refine ⟨paddingFailure (expandInto v s), exec_eq_paddingFailure hcheck hq hpad, expandInto_holdsSchedule v s, rfl,
    fun a ha => ?_, fun a ha => ?_⟩
  · rw [paddingFailure_outByte, if_pos (by simpa using ha)]
  · rw [paddingFailure_outByte, if_neg (by simpa using ha), expandInto_bufferByte]

end Sys2Proof.Proofs.Decryption
end

section
/-! PROOFS. The end of a command (R249-R252): whatever it did, it completes, with the first error that applies to it as its
code. -/
namespace Sys2Proof.Proofs.Completion
open Sys2Proof.Machine Sys2Proof.Spec Sys2Proof.Proofs.Encoding Sys2Proof.Proofs.Operands Sys2Proof.Proofs.Decryption

section
variable {i : Instr} {s t : State} {v : Variant} {e : ErrCode}

/-! ## What every shape of an engine step has in common -/

theorem errBits_le (e : ErrCode) : (errBits e).toNat ≤ 6 := by cases e <;> decide

/-- R252: every engine step completes the command, and none writes CTRL. -/
theorem commandShape_completes (h : CommandShape s t) :
    t.pending = none ∧ t.ctrl = s.ctrl ∧ ∃ e, t.status = statusCompleted e s.status := by
  cases h with
  | failed isMode code _ => exact ⟨raise_pending .., raise_ctrl .., code, raise_status ..⟩
  | primitive | expanded | keyed | wrote => exact ⟨rfl, rfl, .none, rfl⟩
  | badPadding => exact ⟨rfl, rfl, .invalidPadding, rfl⟩

/-- R250: an error but ERR_INVALID_PADDING is found before any transform work. -/
theorem commandShape_error_before_work (h : CommandShape s t) (hzero : t.status.err ≠ 0) (hpad : t.status.err ≠ 4) :
    t.block = s.block ∧ t.rk = s.rk ∧ t.outBuf = s.outBuf := by
  cases h with
  | failed => exact ⟨raise_block .., raise_rk .., raise_outBuf ..⟩
  | primitive | expanded | keyed | wrote => exact absurd rfl hzero
  | badPadding => exact absurd rfl hpad

/-! ## The first error, check by check (R249, R250) -/

theorem firstError_of_not_usesKey (hi : usesKey i = false) : firstError i s = 0 := by
  rw [firstError, hi]

theorem firstError_of_selectedVariant_none (hi : usesKey i = true) (hv : selectedVariant s = none) :
    firstError i s = 2 := by
  rw [firstError, hi, hv]

theorem firstError_of_block (hi : i = .expandKey ∨ i = .encBlock ∨ i = .decBlock) (hv : selectedVariant s = some v) :
    firstError i s = 0 := by
  rcases hi with rfl | rfl | rfl <;> simp [firstError, usesKey, hv, isModeCommand, isDecryptCommand, badPadding]

theorem firstError_addRoundKey (ridx : Nat) (hv : selectedVariant s = some v) :
    firstError (.addRoundKey ridx) s = if nrOf v < ridx then 6 else 0 := by
  simp [firstError, usesKey, hv, isModeCommand, isDecryptCommand, badPadding]

/-- An encrypt command has the one length check `BUF_BYTES <= L`: the padded length is above `L`. -/
theorem firstError_encrypt (hi : i = .ecbEnc ∨ i = .cbcEnc) (hv : selectedVariant s = some v) :
    firstError i s = if bufBytes s ≤ streamLen s then 5 else 0 := by
  have hlen : bufBytes s < streamLen s ∨ bufBytes s < 16 * (streamLen s / 16 + 1) ↔ bufBytes s ≤ streamLen s := by
    have hmod := bufBytes_mod s
    omega
  rcases hi with rfl | rfl <;>
    simp [firstError, usesKey, hv, isModeCommand, isDecryptCommand, badPadding, hlen]

theorem firstError_decrypt (hi : i = .ecbDec ∨ i = .cbcDec) (hv : selectedVariant s = some v) :
    firstError i s = if bufBytes s < streamLen s then 5 else if streamLen s % 16 ≠ 0 then 3
      else if badPadding i s v then 4 else 0 := by
  rcases hi with rfl | rfl <;> simp [firstError, usesKey, hv, isModeCommand, isDecryptCommand]

/-! ## The commands whose checks fail (R244-R246) -/

/-- R252, R253: a failed command as one update of the state. -/
theorem raise_eq (m : Bool) (e : ErrCode) (s : State) :
    raise m e s = { s with
      outLen := if m then 0 else s.outLen, pending := none, status := completedStatus s (errBits e) } := by
  cases m <;> rfl

theorem encryptCheck_of_overlong (hv : selectedVariant s = some v) (hlen : bufBytes s ≤ streamLen s) :
    encryptCheck s = .error .length := by
  rw [encryptCheck_eq, hv]
  exact if_neg hlen.not_gt

theorem decryptCheck_of_overlong (hv : selectedVariant s = some v) (hlen : bufBytes s < streamLen s) :
    decryptCheck s = .error .length := by
  rw [decryptCheck, hv]
  exact if_pos hlen

theorem decryptCheck_of_unaligned (hv : selectedVariant s = some v) (hlen : streamLen s ≤ bufBytes s)
    (hunaligned : streamLen s % 16 ≠ 0) : decryptCheck s = .error .invalidBlockAlignment := by
  rw [decryptCheck, hv]
  exact (if_neg hlen.not_gt).trans (if_pos hunaligned)

theorem runMode_of_error {check : State → Except ErrCode Variant} (finish : Variant → State → State)
    (h : check s = .error e) : runMode check finish s = .next (raise true e s) := by
  rw [runMode, h]

theorem exec_of_encryptCheck_error (hi : i = .ecbEnc ∨ i = .cbcEnc) (h : encryptCheck s = .error e) :
    exec i s = .next (raise true e s) := by
  obtain rfl | rfl := hi
  · rw [exec_ecbEnc, runMode_of_error _ h]
  · rw [exec_cbcEnc, runMode_of_error _ h]

theorem exec_of_decryptCheck_error (hi : i = .ecbDec ∨ i = .cbcDec) (h : decryptCheck s = .error e) :
    exec i s = .next (raise true e s) := by
  obtain rfl | rfl := hi
  · rw [exec_ecbDec, runMode_of_error _ h]
  · rw [exec_cbcDec, runMode_of_error _ h]

/-! ## Every command ends with its first error (R249, R252) -/

/-- The command `i` ended in `t` with `code`, and with OUT_LEN = 0 if it is a mode command and failed (R252). -/
structure EndsWith (i : Instr) (code : BitVec 4) (t : State) : Prop where
  err : t.status.err = code
  outLen_eq_zero : isModeCommand i = true → code ≠ 0 → t.outLen = 0

theorem endsWith_complete (i : Instr) (u : State) : EndsWith i 0 (complete .none u) :=
  ⟨rfl, fun _ h => absurd rfl h⟩

theorem endsWith_raise {m : Bool} (e : ErrCode) (u : State) (hm : isModeCommand i = true → m = true) :
    EndsWith i (errBits e) (raise m e u) :=
  ⟨by simp, fun hi _ => by simp [hm hi]⟩

theorem endsWith_finishDecrypt (i : Instr) (q : List Byte) (u : State) :
    EndsWith i (if !padOk q then 4 else 0) (finishDecrypt q u) := by
  cases hq : padOk q with
  | false =>
    rw [finishDecrypt_of_not_padOk u hq]
    exact endsWith_raise .invalidPadding _ fun _ => rfl
  | true =>
    rw [finishDecrypt, hq]
    exact endsWith_complete i _

theorem endsWith_firstError_of_selectedVariant_none (hi : usesKey i = true) (hv : selectedVariant s = none)
    (h : exec i s = .next t) : EndsWith i (firstError i s) t := by
  rw [exec_of_selectedVariant_none hi hv] at h
  cases h
  rw [firstError_of_selectedVariant_none hi hv]
  exact endsWith_raise .invalidKeyLength s id

theorem endsWith_firstError_encrypt (hi : i = .ecbEnc ∨ i = .cbcEnc) (hv : selectedVariant s = some v)
    (h : exec i s = .next t) : EndsWith i (firstError i s) t := by
  rw [firstError_encrypt hi hv]
  split
  next hlen =>
    rw [exec_of_encryptCheck_error hi (encryptCheck_of_overlong hv hlen)] at h
    cases h
    exact endsWith_raise .length s fun _ => rfl
  next hlen =>
    have hcheck := encryptCheck_of_fits hv (Nat.lt_of_not_le hlen)
    obtain rfl | rfl := hi
    · rw [exec_ecbEnc, runMode_of_ok _ hcheck] at h
      cases h
      exact endsWith_complete _ _
    · rw [exec_cbcEnc, runMode_of_ok _ hcheck] at h
      cases h
      exact endsWith_complete _ _

theorem endsWith_firstError_decrypt (hi : i = .ecbDec ∨ i = .cbcDec) (hv : selectedVariant s = some v)
    (h : exec i s = .next t) : EndsWith i (firstError i s) t := by
  rw [firstError_decrypt hi hv]
  by_cases hlen : bufBytes s < streamLen s
  · rw [if_pos hlen]
    rw [exec_of_decryptCheck_error hi (decryptCheck_of_overlong hv hlen)] at h
    cases h
    exact endsWith_raise .length s fun _ => rfl
  rw [if_neg hlen]
  by_cases hunaligned : streamLen s % 16 ≠ 0
  · rw [if_pos hunaligned]
    rw [exec_of_decryptCheck_error hi (decryptCheck_of_unaligned hv (Nat.le_of_not_lt hlen) hunaligned)] at h
    cases h
    exact endsWith_raise .invalidBlockAlignment s fun _ => rfl
  rw [if_neg hunaligned]
  have hcheck := decryptCheck_of_fits hv (Nat.le_of_not_lt hlen) (not_not.mp hunaligned)
  obtain rfl | rfl := hi
  · rw [exec_ecbDec, runMode_of_ok _ hcheck] at h
    cases h
    exact endsWith_finishDecrypt _ _ _
  · rw [exec_cbcDec, runMode_of_ok _ hcheck] at h
    cases h
    exact endsWith_finishDecrypt _ _ _

theorem endsWith_firstError_addRoundKey {ridx : Nat} (hv : selectedVariant s = some v)
    (h : exec (.addRoundKey ridx) s = .next t) : EndsWith (.addRoundKey ridx) (firstError (.addRoundKey ridx) s) t := by
  rw [firstError_addRoundKey ridx hv]
  simp only [exec, execAddRoundKey, hv] at h
  by_cases hr : nrOf v < ridx
  · rw [if_pos hr] at h ⊢
    cases h
    exact endsWith_raise .roundRange s id
  · rw [if_neg hr] at h ⊢
    cases h
    exact endsWith_complete _ _

/-- R249, R250, R252: the code is the first error that applies to the command. -/
theorem endsWith_firstError (h : exec i s = .next t) : EndsWith i (firstError i s) t := by
  cases hi : usesKey i with
  | false =>
    rw [firstError_of_not_usesKey hi]
    cases i with
    | subBytes | invSubBytes | shiftRows | invShiftRows | mixColumns | invMixColumns =>
      cases h
      exact endsWith_complete _ _
    | expandKey | encBlock | decBlock | ecbEnc | ecbDec | cbcEnc | cbcDec | addRoundKey => cases hi
  | true =>
    cases hv : selectedVariant s with
    | none => exact endsWith_firstError_of_selectedVariant_none hi hv h
    | some v =>
      cases i with
      | expandKey | encBlock | decBlock =>
        rw [firstError_of_block (by simp) hv]
        simp only [exec, execExpandKey, execEncBlock, execDecBlock, hv] at h
        cases h
        exact endsWith_complete _ _
      | addRoundKey => exact endsWith_firstError_addRoundKey hv h
      | ecbEnc | cbcEnc => exact endsWith_firstError_encrypt (by simp) hv h
      | ecbDec | cbcDec => exact endsWith_firstError_decrypt (by simp) hv h
      | subBytes | invSubBytes | shiftRows | invShiftRows | mixColumns | invMixColumns => cases hi

/-- The engine step of a pending word, legal or not: its shape, and its code. -/
theorem engineTurn_completes {c : Word} (hp : s.pending = some c) :
    ∃ t, engineTurn s = .next t ∧ CommandShape s t ∧ t.status.err = completionCode c s := by
  cases hd : decode c with
  | error why =>
    refine ⟨raise false .illegalCmd s, by simp [engineTurn, hp, hd], .failed _ _ (by decide), ?_⟩
    simp [completionCode, hd, errBits]
  | ok i =>
    obtain ⟨t, ht, hshape⟩ := exec_shape i s
    refine ⟨t, by simp [engineTurn, hp, hd, ht], hshape, ?_⟩
    rw [completionCode, hd]
    exact (endsWith_firstError ht).err

end

/-- Settles O43: the code is the first error, and only the shapes that end with 0 or 4 have worked on the data. -/
theorem firstApplicableErrorIsReported : Obligations.FirstApplicableErrorIsReported := by
  intro s c hp
  obtain ⟨t, ht, hshape, hcode⟩ := engineTurn_completes hp
  exact ⟨t, ht, hcode, commandShape_error_before_work hshape⟩

/-- Settles O45: every shape completes the command, and OUT_LEN is what the command's end, or an illegal word's, leaves. -/
theorem everyCommandCompletes : Obligations.EveryCommandCompletes := by
  intro s c hp
  obtain ⟨t, ht, hshape, hcode⟩ := engineTurn_completes hp
  obtain ⟨hidle, -, e, hstatus⟩ := commandShape_completes hshape
  refine ⟨t, ht, by simp [busy, hidle], by simp [hstatus], by simp [hstatus], hcode, ?_, fun i hd hi herr => ?_,
    fun hillegal => ?_⟩
  · simpa [hstatus] using errBits_le e
  · have hexec : exec i s = .next t := by simpa [engineTurn, hp, hd] using ht
    obtain ⟨hfirst, hzero⟩ := endsWith_firstError hexec
    exact hzero hi (hfirst ▸ herr)
  · rw [engineTurn_illegal hp hillegal] at ht
    cases ht
    exact ⟨rfl, rfl⟩

end Sys2Proof.Proofs.Completion
end

section
/-! PROOFS. The errors a command finds in its operands (R243-R246), each with everything the command then does. -/
namespace Sys2Proof.Proofs.OperandErrors
open Sys2Proof.Machine Sys2Proof.Spec Sys2Proof.Proofs.Operands Sys2Proof.Proofs.Completion

/-- Settles O40: the key length is every key-using command's first check. -/
theorem invalidKeyLengthIsRejected : Obligations.InvalidKeyLengthIsRejected := by
  intro i s hi hkey
  rw [exec_of_selectedVariant_none hi (selectedVariant_eq_none.mpr hkey), raise_eq]
  rfl

/-- Settles O41: both checks report a stream that does not fit. -/
theorem overlongStreamIsRejected : Obligations.OverlongStreamIsRejected := by
  intro s v i hkey hlong
  have hv : selectedVariant s = some v := selectedVariant_eq_some.mpr hkey
  obtain ⟨hi, hlen⟩ | ⟨hi, hlen⟩ := hlong
  · exact exec_of_encryptCheck_error hi (encryptCheck_of_overlong hv hlen)
  · exact exec_of_decryptCheck_error hi (decryptCheck_of_overlong hv hlen)

/-- R245: "Encrypt commands never raise it". -/
theorem firstError_encrypt_ne_unaligned {i : Instr} (hi : i = .ecbEnc ∨ i = .cbcEnc) (s : State) : firstError i s ≠ 3 := by
  cases hv : selectedVariant s with
  | none =>
    have huses : usesKey i = true := by obtain rfl | rfl := hi <;> rfl
    rw [firstError_of_selectedVariant_none huses hv]
    decide
  | some v =>
    rw [firstError_encrypt hi hv]
    split <;> decide

/-- Settles O42: the decrypt check reports the length, and an encrypt command's first error is another one. -/
theorem unalignedCiphertextIsRejected : Obligations.UnalignedCiphertextIsRejected := by
  refine ⟨fun s v i hkey hi hlen hunaligned => ?_, fun s t i hi h => ?_⟩
  · exact exec_of_decryptCheck_error hi (decryptCheck_of_unaligned (selectedVariant_eq_some.mpr hkey) hlen hunaligned)
  · rw [(endsWith_firstError h).err]
    exact firstError_encrypt_ne_unaligned hi s

theorem exec_addRoundKey_of_roundRange {s : State} {v : Variant} {ridx : Nat} (hv : selectedVariant s = some v)
    (hr : nrOf v < ridx) : exec (.addRoundKey ridx) s = .next (raise false .roundRange s) := by
  simp only [exec, execAddRoundKey, hv, if_pos hr]

/-- Settles O22: the round range is checked under the variant that the key length selects. -/
theorem addRoundKeyChecksTheRoundRange : Obligations.AddRoundKeyChecksTheRoundRange := by
  refine fun s ridx => ⟨fun v hkey hr => ?_, fun hkey => ?_⟩
  · exact exec_addRoundKey_of_roundRange (selectedVariant_eq_some.mpr hkey) hr
  · exact exec_of_selectedVariant_none rfl (selectedVariant_eq_none.mpr hkey)

end Sys2Proof.Proofs.OperandErrors
end

section
/-! PROOFS. The issue of a command (R251) and the interrupt line (R259), which follows CTRL.IE and STATUS.DONE through every
access, engine step and reset. -/
namespace Sys2Proof.Proofs.Interrupt
open Sys2Proof.Machine Sys2Proof.Spec Sys2Proof.Proofs.Bus Sys2Proof.Proofs.Encoding Sys2Proof.Proofs.Completion

/-- Settles O44: the write passes the bus checks and issues the word. -/
theorem writeToCmdIssues : Obligations.WriteToCmdIssues := by
  intro s c hs
  rw [hostWrite_cmd_idle c hs]
  exact ⟨rfl, rfl⟩

/-! ## The interrupt line under each operation -/

theorem irq_of_commandShape {s t : State} (h : CommandShape s t) : irq t = s.ctrl.ie := by
  obtain ⟨-, hctrl, e, hstatus⟩ := commandShape_completes h
  simp [irq, hctrl, hstatus]

theorem irq_hostRead (a : BitVec 18) (s : State) : irq (hostRead a s) = irq s := by
  obtain h | ⟨loc, -, -, h⟩ | ⟨loc, -, -, h⟩ := hostRead_cases a s <;> rw [h] <;> rfl

/-- R26, R255: a write to STATUS is accepted whether or not a command is pending. -/
theorem hostWrite_status (d : Word) (s : State) : hostWrite 0x00008 d s = respond (.write false) (statusWrite d s) := by
  have hl : locate (bufBytes s) (0x00008 : BitVec 18).toNat = some .status := rfl
  rw [hostWrite_located (by decide) hl rfl]
  simp [writeLocation]

/-- The aligned address of STATUS is 0x00008 alone. -/
theorem eq_of_locate_status {size : Nat} {a : BitVec 18} (ha : a.toNat % 4 = 0)
    (h : locate size a.toNat = some .status) : a = 0x00008 :=
  BitVec.eq_of_toNat_eq (addressOf_of_locate ha h).symm

/-- A write that is answered with an error or dropped keeps the line: no accepted write is either. -/
theorem irq_hostWrite_without_effect {s : State} {a : BitVec 18} {d : Word}
    (h : hostFault (hostWrite a d s) = true ∨ busy s = true ∧ a ≠ 0x00008) : irq (hostWrite a d s) = irq s := by
  by_cases ha : a.toNat % 4 = 0
  · obtain hw | ⟨-, hw⟩ | ⟨loc, hl, -, haccepted, hw⟩ := hostWrite_cases a d s
    · rw [hw]
      rfl
    · rw [hw]
      rfl
    · exfalso
      obtain hfault | ⟨hbusy, hne⟩ := h
      · simp [hw] at hfault
      · obtain hidle | rfl := haccepted
        · simp [hbusy] at hidle
        · exact hne (eq_of_locate_status ha hl)
  · rw [hostWrite_rejected (.inl ha)]
    rfl

/-- Settles O47: after a completion DONE is 1; a clear, an issue and reset leave the line 0; nothing else here moves it. -/
theorem interruptFollowsCompletion : Obligations.InterruptFollowsCompletion := by
  refine ⟨fun s => rfl, fun s t hbusy ht => ?_, fun s d hd => ?_, fun s c hidle => ?_, fun s => rfl,
    fun s a => irq_hostRead a s, fun s a d => irq_hostWrite_without_effect⟩
  · obtain ⟨c, hp⟩ := Option.isSome_iff_exists.mp hbusy
    obtain ⟨u, hu, hshape, -⟩ := engineTurn_completes hp
    cases hu.symm.trans ht
    exact irq_of_commandShape hshape
  · rw [hostWrite_status]
    simp [irq, hd]
  · rw [hostWrite_cmd_idle c hidle]
    simp [irq]

end Sys2Proof.Proofs.Interrupt
end

section
/-! PROOFS. A write while a command is pending (R277): to STATUS it takes effect, to any other location it is dropped. -/
namespace Sys2Proof.Proofs.Hazards
open Sys2Proof.Machine Sys2Proof.Spec Sys2Proof.Proofs.Bus Sys2Proof.Proofs.Interrupt

/-- The write lands in a writable location other than STATUS, where a busy machine drops it. -/
theorem hostWrite_busy_dropped {s : State} {a : BitVec 18} (d : Word) (hbusy : busy s = true) (ha : a.toNat % 4 = 0)
    (hmap : Mapped (bufBytes s) a.toNat) (hro : ¬ReadOnly a.toNat) (hne : a ≠ 0x00008) :
    hostWrite a d s = respond (.write false) (dropWrite s) := by
  obtain ⟨loc, hl⟩ := exists_locate_of_mapped hmap
  have hw : isWritable loc = true := (isWritable_iff_not_readOnly (bufBytes_le s) hl).mpr hro
  have hloc : loc ≠ .status := fun h => hne (eq_of_locate_status ha (h ▸ hl))
  rw [hostWrite_located ha hl hw]
  simp [hbusy, hloc]

/-- Settles O53: the dropped write sets WERR alone; the write to STATUS is the one an idle machine carries out too. -/
theorem writesWhileBusyAreDropped : Obligations.WritesWhileBusyAreDropped :=
  fun s _ d hbusy ha hmap hro hne => ⟨hostWrite_busy_dropped d hbusy ha hmap hro hne, hostWrite_status d s⟩

end Sys2Proof.Proofs.Hazards
end

section
/-! PROOFS. The reset values (R271). -/
namespace Sys2Proof.Proofs.Reset
open Sys2Proof.Machine

theorem reset_key (i : Fin 8) : State.reset.key[i] = 0 := by simp [State.reset]

theorem reset_rk (i : Fin 60) : State.reset.rk[i] = 0 := by simp [State.reset]

/-- Settles O56: a reset gives every field named here the value it has in State.reset. -/
theorem resetClearsEveryRegister : Obligations.ResetClearsEveryRegister := by
  rintro t (rfl | ⟨s, rfl⟩) <;> exact ⟨rfl, rfl, rfl, rfl, rfl, rfl, reset_key, rfl, rfl, reset_rk, rfl⟩

end Sys2Proof.Proofs.Reset
end

section
/-! PROOFS. The decoder against the encoder (R93, R97): a row of the opcode map is selected by exactly the words that
encode what it builds, and the rows have distinct operation codes. -/
namespace Sys2Proof.Proofs.Decoding
open Sys2Proof.Machine Sys2Proof.Spec Sys2Proof.Proofs.Encoding

/-! ## The words that select a row (R93) -/

/-- A word is its bits under ADD_ROUND_KEY's mask together with RIDX in bits 11:8. -/
theorem and_or_ridxField (c : Word) : (c &&& 0xFFFFF0FF#32) ||| ((ridxField c).setWidth 32 <<< 8) = c := by
  have hmask : ∀ i < 32, (0xFFFFF0FF#32).getLsbD i = !(decide (8 ≤ i) && decide (i < 12)) := by decide
  refine BitVec.eq_of_getLsbD_eq fun i hi => ?_
  simp only [BitVec.getLsbD_or, BitVec.getLsbD_and, hmask i hi, BitVec.getLsbD_shiftLeft, BitVec.getLsbD_setWidth,
    ridxField, BitVec.getLsbD_extractLsb']
  by_cases hlow : i < 8
  · simp [hlow, show ¬8 ≤ i by omega]
  · by_cases hfield : i < 12
    · simp [hlow, hfield, hi, show 8 ≤ i by omega, show i - 8 < 4 by omega, show i - 8 < 32 by omega]
    · simp [hfield, show ¬i - 8 < 4 by omega]

/-- RIDX in bits 11:8 has no bit under ADD_ROUND_KEY's mask. -/
theorem ridx_shift_and_mask (r : BitVec 4) : (r.setWidth 32 <<< 8) &&& 0xFFFFF0FF#32 = 0#32 := by
  revert r
  decide

theorem encode_addRoundKey_toNat (r : BitVec 4) :
    encode (.addRoundKey r.toNat) = 0x26#32 ||| (r.setWidth 32 <<< 8) := by
  rw [encode, BitVec.ofNat_toNat]
  rfl

/-- ADD_ROUND_KEY's row leaves RIDX free, which is where its encoding puts RIDX. -/
theorem and_mask_eq_iff_encode_addRoundKey (c : Word) :
    c &&& 0xFFFFF0FF#32 = 0x26#32 ↔ encode (.addRoundKey (ridxField c).toNat) = c := by
  rw [encode_addRoundKey_toNat]
  refine ⟨fun h => by rw [← h, and_or_ridxField], fun h => ?_⟩
  generalize ridxField c = r at h
  rw [← h, BitVec.and_or_distrib_right, ridx_shift_and_mask]
  rfl

/-- The commands of the rows that leave no bit of the word free. -/
def plainCommands : List Instr :=
  [.expandKey, .encBlock, .decBlock, .ecbEnc, .ecbDec, .cbcEnc, .cbcDec, .subBytes, .invSubBytes, .shiftRows,
   .invShiftRows, .mixColumns, .invMixColumns]

theorem opcodeMap_eq : opcodeMap = plainCommands.map (fun i => ⟨encode i, 0xFFFFFFFF, fun _ => i⟩) ++
    [⟨0x26, 0xFFFFF0FF, .addRoundKey⟩] := rfl

/-- The two kinds of rows: a plain command's, and ADD_ROUND_KEY's. -/
theorem mem_opcodeMap_iff {row : OpcodeRow} :
    row ∈ opcodeMap ↔ (∃ i ∈ plainCommands, ⟨encode i, 0xFFFFFFFF, fun _ => i⟩ = row) ∨
      row = ⟨0x26, 0xFFFFF0FF, .addRoundKey⟩ := by
  rw [opcodeMap_eq, List.mem_append, List.mem_map, List.mem_singleton]

/-- A row is selected by the words that encode the command it builds from their RIDX. -/
theorem selectedBy_iff_encode {row : OpcodeRow} (hrow : row ∈ opcodeMap) (c : Word) :
    row.selectedBy c = true ↔ encode (row.build (ridxField c).toNat) = c := by
  obtain ⟨i, -, rfl⟩ | rfl := mem_opcodeMap_iff.mp hrow
  · have hall : c &&& 0xFFFFFFFF#32 = c := BitVec.and_allOnes
    refine beq_iff_eq.trans ?_
    change c &&& 0xFFFFFFFF#32 = encode i ↔ encode i = c
    rw [hall, eq_comm]
  · exact beq_iff_eq.trans (and_mask_eq_iff_encode_addRoundKey c)

theorem build_wellFormed {row : OpcodeRow} (hrow : row ∈ opcodeMap) (r : BitVec 4) :
    (row.build r.toNat).wellFormed = true := by
  have hplain : ∀ i ∈ plainCommands, i.wellFormed = true := by decide
  obtain ⟨i, hi, rfl⟩ | rfl := mem_opcodeMap_iff.mp hrow
  · exact hplain i hi
  · exact decide_eq_true r.isLt

/-! ## At most one row (R97) -/

/-- Every mask covers OPC, so a word that selects a row has the row's operation code. -/
theorem opcField_of_selectedBy {row : OpcodeRow} (hrow : row ∈ opcodeMap) {c : Word} (h : row.selectedBy c = true) :
    opcField row.pattern = opcField c := by
  have hmask : ∀ row ∈ opcodeMap, opcField row.mask = 0xFF#8 := by decide
  calc opcField row.pattern
    _ = opcField (c &&& row.mask) := by rw [beq_iff_eq.mp h]
    _ = opcField c &&& opcField row.mask := BitVec.extractLsb'_and ..
    _ = opcField c &&& BitVec.allOnes 8 := congrArg _ (hmask row hrow)
    _ = opcField c := BitVec.and_allOnes

theorem selectedBy_unique {row other : OpcodeRow} (hrow : row ∈ opcodeMap) (hother : other ∈ opcodeMap) {c : Word}
    (h : row.selectedBy c = true) (h' : other.selectedBy c = true) : other = row := by
  have hdistinct : (opcodeMap.map fun row => opcField row.pattern).Nodup := by decide
  refine List.inj_on_of_nodup_map hdistinct hother hrow ?_
  rw [opcField_of_selectedBy hother h', opcField_of_selectedBy hrow h]

/-! ## The legal words are those that select a row (R94, R97) -/

theorem legal_encode {i : Instr} (h : i.wellFormed = true) : legal (encode i) = true := by
  cases i with
  | addRoundKey r => exact (Laws.LegalEncoding.addRoundKey r h).1
  | expandKey | encBlock | decBlock | ecbEnc | ecbDec | cbcEnc | cbcDec | subBytes | invSubBytes | shiftRows
  | invShiftRows | mixColumns | invMixColumns => rfl

theorem legal_of_selectedBy {row : OpcodeRow} (hrow : row ∈ opcodeMap) {c : Word} (h : row.selectedBy c = true) :
    legal c = true := by
  have hlegal := legal_encode (build_wellFormed hrow (ridxField c))
  rwa [(selectedBy_iff_encode hrow c).mp h] at hlegal

theorem exists_selectedBy_of_legal {c : Word} (h : legal c = true) : ∃ row ∈ opcodeMap, row.selectedBy c = true := by
  have hplain : ∀ n ∈ [0x01, 0x02, 0x03, 0x10, 0x11, 0x12, 0x13, 0x20, 0x21, 0x22, 0x23, 0x24, 0x25],
      ∃ row ∈ opcodeMap, row.selectedBy (BitVec.ofNat 32 n) = true := by decide
  have hridx : ∀ r < 16, ∃ row ∈ opcodeMap, row.selectedBy (BitVec.ofNat 32 (0x26 + 256 * r)) = true := by decide
  obtain hc | ⟨r, hr, hc⟩ := (legalWordsAreThoseListed c).mp h
  · simpa using hplain c.toNat hc
  · simpa [← hc] using hridx r hr

theorem decode_of_selectedBy {row : OpcodeRow} (hrow : row ∈ opcodeMap) {c : Word} (h : row.selectedBy c = true) :
    decode c = .ok (row.build (ridxField c).toNat) := by
  have hfind : opcodeMap.find? (fun row => row.selectedBy c) = some row := by
    have hsome : (opcodeMap.find? fun row => row.selectedBy c).isSome := List.find?_isSome.mpr ⟨row, hrow, h⟩
    obtain ⟨other, hother⟩ := Option.isSome_iff_exists.mp hsome
    have hsel : other.selectedBy c = true := by simpa using List.find?_some hother
    rw [hother, selectedBy_unique hrow (List.mem_of_find?_eq_some hother) h hsel]
  simp [decode, legal_of_selectedBy hrow h, hfind]

/-! ## The obligations -/

/-- Settles O3: legality is the selection of a row, and a second row would have the same operation code. -/
theorem legalWordSelectsExactlyOneRow : Obligations.LegalWordSelectsExactlyOneRow := by
  refine fun c => ⟨fun hlegal => ?_, fun hillegal => ⟨fun row hrow => ?_, _, decode_of_illegal hillegal⟩⟩
  · obtain ⟨row, hrow, hsel⟩ := exists_selectedBy_of_legal hlegal
    exact ⟨row, hrow, hsel, decode_of_selectedBy hrow hsel, fun other hother => selectedBy_unique hrow hother hsel⟩
  · rw [← Bool.not_eq_true]
    intro hsel
    simp [legal_of_selectedBy hrow hsel] at hillegal

/-- Settles O2: the word selects the row that built the command, and selecting a row is being an encoding. -/
theorem encodeOfDecodeIsTheWord : Obligations.EncodeOfDecodeIsTheWord := by
  intro c i hdec
  cases hlegal : legal c with
  | false => simp [decode_of_illegal hlegal] at hdec
  | true =>
    obtain ⟨row, hrow, hsel⟩ := exists_selectedBy_of_legal hlegal
    rw [decode_of_selectedBy hrow hsel] at hdec
    cases hdec
    exact ⟨(selectedBy_iff_encode hrow c).mp hsel, build_wellFormed hrow (ridxField c)⟩

/-- Settles O1: a plain command has one word, and RIDX has 16 values. -/
theorem decodeOfEncodeIsTheCommand : Obligations.DecodeOfEncodeIsTheCommand := by
  intro i hwf
  cases i with
  | addRoundKey r =>
    have hr : r < 16 := of_decide_eq_true hwf
    have hdecode : ∀ r < 16, decode (encode (.addRoundKey r)) = .ok (.addRoundKey r) := by decide
    exact hdecode r hr
  | expandKey | encBlock | decBlock | ecbEnc | ecbDec | cbcEnc | cbcDec | subBytes | invSubBytes | shiftRows
  | invShiftRows | mixColumns | invMixColumns => rfl

/-- Settles O5: the five words are encodings of the five commands. -/
theorem writtenWordsDecode : Obligations.WrittenWordsDecode := ⟨rfl, rfl, rfl, rfl, rfl⟩

end Sys2Proof.Proofs.Decoding
end

section
/-! PROOFS. The step (R41, R42): the turn it takes, and that it always answers a next state. -/
namespace Sys2Proof.Proofs.Turns
open Sys2Proof.Machine Sys2Proof.Spec Sys2Proof.Proofs.Encoding Sys2Proof.Proofs.Decoding

/-! ## The turn of a step -/

theorem step_of_agenda_nil {s : State} (h : s.agenda = []) : step s = engineTurn s := by
  rw [step, h]

theorem step_of_agenda_cons {s : State} {e : Event} {rest : List Event} (h : s.agenda = e :: rest) :
    step s = takeTurn e { s with agenda := rest } := by
  rw [step, h]

/-- R41: "When BUSY = 0 the engine has no step". -/
theorem engineTurn_idle {s : State} (h : busy s = false) : engineTurn s = .next s := by
  rw [engineTurn, pending_eq_none_of_not_busy h]

theorem engineTurn_pending {s : State} {c : Word} {i : Instr} (hp : s.pending = some c) (hd : decode c = .ok i) :
    engineTurn s = exec i s := by
  simp [engineTurn, hp, hd]

/-- Settles O8: the agenda's first turn, or the engine's, which an idle engine does not take. -/
theorem stepTakesTheNextTurn : Obligations.StepTakesTheNextTurn := by
  refine fun s rest => ⟨fun a h => step_of_agenda_cons h, fun a d h => step_of_agenda_cons h,
    fun h => step_of_agenda_cons h, fun h => step_of_agenda_cons h, step_of_agenda_nil, fun hidle h => ?_,
    fun hidle h => ?_⟩
  · exact (step_of_agenda_cons h).trans (engineTurn_idle hidle)
  · exact (step_of_agenda_nil h).trans (engineTurn_idle hidle)

theorem tableWord_toNat (c : Word) : tableWord 32 c.toNat = c := by
  rw [tableWord, Nat.mod_eq_of_lt c.isLt, BitVec.ofNat_toNat, BitVec.setWidth_eq]

/-- Settles O7: the engine's turn decodes the pending word, and `withFetchWord` leaves no other turn. -/
theorem stepRunsThePendingCommand : Obligations.StepRunsThePendingCommand := by
  refine ⟨fun s c i hp hd => ⟨fun h => ?_, fun rest h => ?_⟩, fun s i hwf => ?_⟩
  · exact (step_of_agenda_nil h).trans (engineTurn_pending hp hd)
  · exact (step_of_agenda_cons h).trans (engineTurn_pending hp hd)
  · have hp : (s.withFetchWord 32 (encode i).toNat).pending = some (encode i) := congrArg some (tableWord_toNat _)
    exact (step_of_agenda_nil rfl).trans (engineTurn_pending hp (decodeOfEncodeIsTheCommand i hwf))

/-! ## Every turn answers a next state -/

theorem engineTurn_answers_next (s : State) : ∃ t, engineTurn s = .next t := by
  obtain ⟨-, h⟩ | ⟨c, why, -, -, h⟩ | ⟨c, i, -, -, h⟩ := engineTurn_cases s
  · exact ⟨_, h⟩
  · exact ⟨_, h⟩
  · obtain ⟨t, ht, -⟩ := exec_shape i s
    exact ⟨t, h.trans ht⟩

theorem takeTurn_answers_next (e : Event) (s : State) : ∃ t, takeTurn e s = .next t := by
  cases e with
  | read | write | reset => exact ⟨_, rfl⟩
  | engine => exact engineTurn_answers_next s

/-- Settles O9: no turn faults or is refused. -/
theorem everyStepAnswersNext : Obligations.EveryStepAnswersNext := by
  intro s
  obtain ⟨-, h⟩ | ⟨e, rest, -, h⟩ := step_cases s
  · exact h ▸ engineTurn_answers_next s
  · exact h ▸ takeTurn_answers_next e _

end Sys2Proof.Proofs.Turns
end

section
/-! PROOFS. The invariant (R28, R38, R71, R248): it holds at reset, and the engine's turn, a host access and a reset keep
it. -/
namespace Sys2Proof.Proofs.Invariant
open Sys2Proof.Machine Sys2Proof.Spec Sys2Proof.Proofs.Bus Sys2Proof.Proofs.Completion

section
variable {s t : State}

/-- What the invariant says of one buffer's contents, for buffers of `size` bytes. -/
structure BufferOk (size : Nat) (m : Memory) : Prop where
  sorted : Memory.wf m
  bounded : ∀ p ∈ m, p.1 < size

theorem BufferOk.memPutAll {size a : Nat} {m : Memory} {x : List Byte} (h : BufferOk size m)
    (ha : a + x.length ≤ size) : BufferOk size (memPutAll a x m) :=
  ⟨memPutAll_wf x m a h.sorted, memPutAll_bounded x m a ha h.bounded⟩

theorem inBuf_ok (h : s.Inv) : BufferOk (bufBytes s) s.inBuf := ⟨h.inSorted, h.inBounded⟩

theorem outBuf_ok (h : s.Inv) : BufferOk (bufBytes s) s.outBuf := ⟨h.outSorted, h.outBounded⟩

theorem BufferOk.nil (size : Nat) : BufferOk size [] := ⟨List.Pairwise.nil, fun _ h => absurd h List.not_mem_nil⟩

theorem inv_of_parts (hin : BufferOk (bufBytes t) t.inBuf) (hout : BufferOk (bufBytes t) t.outBuf)
    (herr : t.status.err.toNat ≤ 6) (hboth : ¬(busy t = true ∧ t.status.done = true)) : t.Inv :=
  ⟨hin.sorted, hout.sorted, hin.bounded, hout.bounded, herr, hboth⟩

/-- R271, R272: what a reset leaves of the buffers and STATUS. -/
theorem inv_of_cleared (hin : t.inBuf = []) (hout : t.outBuf = []) (hstatus : t.status = ⟨false, false, 0⟩) : t.Inv :=
  inv_of_parts (hin ▸ .nil _) (hout ▸ .nil _) (by simp [hstatus]) (by simp [hstatus])

/-- The invariant reads neither the turns to come nor the port's answer nor the counter of free reads. -/
theorem inv_bookkeeping (h : s.Inv) (rest : List Event) (r : Option BusResponse) (n : Nat) :
    State.Inv { s with agenda := rest, response := r, draws := n } :=
  ⟨h.inSorted, h.outSorted, h.inBounded, h.outBounded, h.errWritten, h.notBoth⟩

/-! ## The engine's turn -/

/-- No command writes IN_BUF, and what one writes to OUT_BUF fits. -/
theorem buffers_of_commandShape (hin : BufferOk (bufBytes s) s.inBuf) (hout : BufferOk (bufBytes s) s.outBuf)
    (h : CommandShape s t) : BufferOk (bufBytes t) t.inBuf ∧ BufferOk (bufBytes t) t.outBuf := by
  cases h with
  | failed isMode code _ => simpa using ⟨hin, hout⟩
  | primitive | expanded | keyed => exact ⟨hin, hout⟩
  | wrote v n x _ hx | badPadding v x _ hx => exact ⟨hin, hout.memPutAll (by simpa using hx)⟩

theorem inv_of_commandShape (hs : s.Inv) (h : CommandShape s t) : t.Inv := by
  obtain ⟨hin, hout⟩ := buffers_of_commandShape (inBuf_ok hs) (outBuf_ok hs) h
  obtain ⟨hidle, -, e, hstatus⟩ := commandShape_completes h
  exact inv_of_parts hin hout (by simpa [hstatus] using errBits_le e) (by simp [busy, hidle])

theorem inv_engineTurn (hs : s.Inv) (h : engineTurn s = .next t) : t.Inv := by
  obtain ⟨-, hturn⟩ | ⟨c, why, -, -, hturn⟩ | ⟨c, i, -, -, hturn⟩ := engineTurn_cases s
  · cases hturn.symm.trans h
    exact hs
  · cases hturn.symm.trans h
    exact inv_of_commandShape hs (.failed false .illegalCmd (by decide))
  · obtain ⟨u, hu, hshape⟩ := exec_shape i s
    cases (hturn.trans hu).symm.trans h
    exact inv_of_commandShape hs hshape

/-! ## Host accesses and reset -/

theorem inv_respond (h : s.Inv) (r : BusResponse) : (respond r s).Inv := inv_bookkeeping h s.agenda (some r) s.draws

theorem inv_hostRead (h : s.Inv) (a : BitVec 18) : (hostRead a s).Inv := by
  obtain hr | ⟨loc, -, -, hr⟩ | ⟨loc, -, -, hr⟩ := hostRead_cases a s <;> rw [hr]
  · exact inv_respond h _
  · exact inv_bookkeeping h s.agenda _ (s.draws + 1)
  · exact inv_respond h _

theorem inv_dropWrite (h : s.Inv) : (dropWrite s).Inv :=
  ⟨h.inSorted, h.outSorted, h.inBounded, h.outBounded, h.errWritten, h.notBoth⟩

theorem inv_statusWrite (h : s.Inv) (d : Word) : (statusWrite d s).Inv := by
  have hin := inBuf_ok h
  have hout := outBuf_ok h
  refine inv_of_parts hin hout h.errWritten fun ⟨hbusy, hdone⟩ => h.notBoth ⟨hbusy, ?_⟩
  rw [statusWrite_status, statusClear_done, Bool.and_eq_true] at hdone
  exact hdone.1

/-- An aligned word of IN_BUF lies within the buffer whole, BUF_BYTES being a multiple of 4 (R8, R68). -/
theorem inBuf_word_fits {a n : Nat} (ha : a % 4 = 0) (hl : locate (bufBytes s) a = some (.inBuf n)) :
    n + 4 ≤ bufBytes s := by
  obtain ⟨han, hn⟩ := locate_inBuf hl
  have hmod := bufBytes_mod s
  omega

theorem inv_writeLocation (h : s.Inv) (d : Word) {loc : Location} (hfits : ∀ n, loc = .inBuf n → n + 4 ≤ bufBytes s) :
    (writeLocation d s loc).Inv := by
  have hin := inBuf_ok h
  have hout := outBuf_ok h
  cases loc with
  | ctrl | inLen | outLen | key | iv | state | rk | outBuf => exact inv_of_parts hin hout h.errWritten h.notBoth
  | cmd => exact inv_of_parts hin hout (Nat.zero_le 6) fun hb => Bool.noConfusion hb.2
  | status => exact inv_statusWrite h d
  | inBuf n => exact inv_of_parts (hin.memPutAll (hfits n rfl)) hout h.errWritten h.notBoth

theorem inv_hostWrite (h : s.Inv) (a : BitVec 18) (d : Word) : (hostWrite a d s).Inv := by
  by_cases ha : a.toNat % 4 = 0
  · obtain hw | ⟨-, hw⟩ | ⟨loc, hl, -, -, hw⟩ := hostWrite_cases a d s <;> rw [hw]
    · exact inv_respond h _
    · exact inv_respond (inv_dropWrite h) _
    · exact inv_respond (inv_writeLocation h d fun n hn => inBuf_word_fits ha (hn ▸ hl)) _
  · rw [hostWrite_rejected (.inl ha)]
    exact inv_respond h _

theorem inv_resetState (s : State) : (resetState s).Inv := inv_of_cleared rfl rfl rfl

theorem inv_takeTurn (hs : s.Inv) (e : Event) (h : takeTurn e s = .next t) : t.Inv := by
  cases e with
  | engine => exact inv_engineTurn hs h
  | read a =>
    cases h
    exact inv_hostRead hs a
  | write a d =>
    cases h
    exact inv_hostWrite hs a d
  | reset =>
    cases h
    exact inv_resetState s

end

/-- Settles O57: the reset state has what every reset leaves. -/
theorem resetMeetsTheInvariant : Obligations.ResetMeetsTheInvariant := inv_of_cleared rfl rfl rfl

/-- Settles O58: a step is the engine's turn, or the first turn of the agenda without it. -/
theorem everyStepKeepsTheInvariant : Obligations.EveryStepKeepsTheInvariant := by
  intro s t hs h
  obtain ⟨-, hstep⟩ | ⟨e, rest, -, hstep⟩ := step_cases s <;> rw [hstep] at h
  · exact inv_engineTurn hs h
  · exact inv_takeTurn (inv_bookkeeping hs rest s.response s.draws) e h

end Sys2Proof.Proofs.Invariant
end

section
/-! PROOFS. A pending command and the host (R42, R282): no host access takes the command or an operand away, so
the engine's turn comes at the end of the agenda at the latest. -/
namespace Sys2Proof.Proofs.PendingCommand
open Sys2Proof.Machine Sys2Proof.Spec Sys2Proof.Proofs.Turns Sys2Proof.Proofs.Completion

section
variable {s t u : State}

theorem sameOperands_trans (h : SameOperands s t) (h' : SameOperands t u) : SameOperands s u := by
  obtain ⟨hpending, hctrl, hinLen, hkey, hiv, hblock, hbytes⟩ := h
  obtain ⟨hpending', hctrl', hinLen', hkey', hiv', hblock', hbytes'⟩ := h'
  exact ⟨hpending'.trans hpending, hctrl'.trans hctrl, hinLen'.trans hinLen, hkey'.trans hkey, hiv'.trans hiv,
    hblock'.trans hblock, fun a => (hbytes' a).trans (hbytes a)⟩

theorem busy_of_sameOperands (h : SameOperands s t) (hbusy : busy s = true) : busy t = true := by
  obtain ⟨hpending, -⟩ := h
  rwa [busy, hpending]

theorem sameOperands_hostRead (a : BitVec 18) (s : State) :
    SameOperands s (hostRead a s) ∧ (hostRead a s).agenda = s.agenda := by
  obtain h | ⟨loc, -, -, h⟩ | ⟨loc, -, -, h⟩ := hostRead_cases a s <;> rw [h] <;>
    exact ⟨⟨rfl, rfl, rfl, rfl, rfl, rfl, fun _ => rfl⟩, rfl⟩

/-- R277: the one write a busy machine carries out is that to STATUS, which holds no operand. -/
theorem sameOperands_hostWrite (hbusy : busy s = true) (a : BitVec 18) (d : Word) :
    SameOperands s (hostWrite a d s) ∧ (hostWrite a d s).agenda = s.agenda := by
  obtain h | ⟨-, h⟩ | ⟨loc, -, -, hidle | rfl, h⟩ := hostWrite_cases a d s
  case inr.inr.inl => simp [hbusy] at hidle
  all_goals
    rw [h]
    exact ⟨⟨rfl, rfl, rfl, rfl, rfl, rfl, fun _ => rfl⟩, rfl⟩

/-- A step that takes a host access of the agenda while a command is pending. -/
theorem step_hostAccess {e : Event} {rest : List Event} (hbusy : busy s = true) (he : isHostAccess e = true)
    (h : s.agenda = e :: rest) : ∃ t, step s = .next t ∧ t.agenda = rest ∧ SameOperands s t := by
  have hstep := step_of_agenda_cons h
  cases e with
  | read a =>
    obtain ⟨hsame, hrest⟩ := sameOperands_hostRead a { s with agenda := rest }
    exact ⟨_, hstep, hrest, hsame⟩
  | write a d =>
    have hbusy' : busy { s with agenda := rest } = true := hbusy
    obtain ⟨hsame, hrest⟩ := sameOperands_hostWrite hbusy' a d
    exact ⟨_, hstep, hrest, hsame⟩
  | engine | reset => cases he

theorem runSteps_succ (k : Nat) (h : step s = .next t) : runSteps (k + 1) s = runSteps k t := by
  rw [runSteps, h]

end

/-- Settles O55: access by access, the operands stay. -/
theorem operandsHoldUntilTheEngineStep : Obligations.OperandsHoldUntilTheEngineStep := by
  intro accesses rest s hbusy haccess hagenda
  induction accesses generalizing s with
  | nil => exact ⟨s, rfl, hagenda, rfl, rfl, rfl, rfl, rfl, rfl, fun _ => rfl⟩
  | cons e es ih =>
    obtain ⟨t, hstep, hrest, hsame⟩ := step_hostAccess hbusy (haccess e List.mem_cons_self) hagenda
    obtain ⟨u, hrun, hurest, husame⟩ :=
      ih t (busy_of_sameOperands hsame hbusy) (fun e he => haccess e (List.mem_cons_of_mem _ he)) hrest
    exact ⟨u, (runSteps_succ _ hstep).trans hrun, hurest, sameOperands_trans hsame husame⟩

theorem engineTurn_of_busy {s : State} (h : busy s = true) :
    ∃ t, engineTurn s = .next t ∧ busy t = false ∧ t.status.done = true := by
  obtain ⟨c, hp⟩ := Option.isSome_iff_exists.mp h
  obtain ⟨t, ht, hidle, hdone, -⟩ := everyCommandCompletes s c hp
  exact ⟨t, ht, hidle, hdone⟩

/-- Settles O59: a host access leaves the command pending and the agenda shorter; any other turn is the engine's. -/
theorem pendingCommandCompletesInTime : Obligations.PendingCommandCompletesInTime := by
  intro s hbusy hreset
  generalize hagenda : s.agenda = agenda at hreset ⊢
  induction agenda generalizing s with
  | nil =>
    obtain ⟨t, hturn, hidle, hdone⟩ := engineTurn_of_busy hbusy
    exact ⟨1, t, le_rfl, runSteps_succ 0 ((step_of_agenda_nil hagenda).trans hturn), hidle, hdone⟩
  | cons e rest ih =>
    cases e with
    | reset => exact absurd rfl (hreset _ List.mem_cons_self)
    | engine =>
      have hbusy' : busy { s with agenda := rest } = true := hbusy
      obtain ⟨t, hturn, hidle, hdone⟩ := engineTurn_of_busy hbusy'
      exact ⟨1, t, by simp, runSteps_succ 0 ((step_of_agenda_cons hagenda).trans hturn), hidle, hdone⟩
    | read | write =>
      obtain ⟨t, hstep, hrest, hsame⟩ := step_hostAccess hbusy rfl hagenda
      obtain ⟨k, u, hk, hrun, hidle, hdone⟩ :=
        ih t (busy_of_sameOperands hsame hbusy) hrest fun e he => hreset e (List.mem_cons_of_mem _ he)
      exact ⟨k + 1, u, Nat.succ_le_succ hk, (runSteps_succ k hstep).trans hrun, hidle, hdone⟩

end Sys2Proof.Proofs.PendingCommand
end

section
/-! PROOFS. The field GF(2^8) and the constant tables (R111, R115, R116): inverses by way of the S-box, and what
the tables hold. -/
namespace Sys2Proof.Proofs.Field
open Sys2Proof.Machine Sys2Proof.Proofs.GmulLaws

/-- R121 read backwards: `sboxAffine` undone, which takes `SBox[a]` to the inverse of a nonzero `a`. -/
def sboxAffineInv (b : Byte) : Byte := b.rotateLeft 1 ^^^ b.rotateLeft 3 ^^^ b.rotateLeft 6 ^^^ 0x05

theorem gmul_sboxAffineInv_sbox : ∀ a : Byte, a ≠ 0 → gmul a (sboxAffineInv (sbox a)) = 1#8 := by decide

/-- Settles O11: the ring laws, and the inverse that the S-box is made of, unique because the product is associative. -/
theorem gmulIsFieldMultiplication : Obligations.GmulIsFieldMultiplication := by
  have gmul_one_right (a : Byte) : gmul a 1#8 = a := (gmul_comm a 1#8).trans (gmul_one_left a)
  refine ⟨gmul_comm, gmul_assoc, gmul_xor_right, gmul_one_right, fun a ha => ?_⟩
  have hinv := gmul_sboxAffineInv_sbox a ha
  generalize sboxAffineInv (sbox a) = a' at hinv
  refine ⟨a', hinv, fun b hb => ?_⟩
  calc b
    _ = gmul (gmul a a') b := by rw [hinv, gmul_one_left]
    _ = gmul a' (gmul a b) := by rw [gmul_comm a, gmul_assoc]
    _ = a' := by rw [hb]; exact gmul_one_right a'

/-- Settles O12: for all 256 bytes, by computation, as the spec derives it. -/
theorem substitutionTablesAreInverse : Obligations.SubstitutionTablesAreInverse := ⟨by decide, by decide⟩

/-- Settles O13: for the ten entries, by computation, as the spec derives it. -/
theorem rconDoublesFromOneToThirtySix : Obligations.RconDoublesFromOneToThirtySix := by
  unfold Obligations.RconDoublesFromOneToThirtySix
  decide

end Sys2Proof.Proofs.Field
end

section
/-! PROOFS. The primitives and their inverses (R157, R165). -/
namespace Sys2Proof.Proofs.Inverses
open Sys2Proof.Machine Sys2Proof.Spec Sys2Proof.Proofs.KeySchedule Sys2Proof.Proofs.RoundEngine Sys2Proof.Proofs.Field

/-! ## Each primitive and its inverse -/

@[simp] theorem invSbox_sbox (x : Byte) : invSbox (sbox x) = x := substitutionTablesAreInverse.1 x

@[simp] theorem sbox_invSbox (x : Byte) : sbox (invSbox x) = x := substitutionTablesAreInverse.2 x

@[simp] theorem invSubBytes_subBytes (b : Block) : invSubBytes (subBytes b) = b :=
  block_ext fun r c => by simp only [entry_invSubBytes, entry_subBytes, invSbox_sbox]

@[simp] theorem subBytes_invSubBytes (b : Block) : subBytes (invSubBytes b) = b :=
  block_ext fun r c => by simp only [entry_invSubBytes, entry_subBytes, sbox_invSbox]

@[simp] theorem invShiftRows_shiftRows (b : Block) : invShiftRows (shiftRows b) = b :=
  block_ext fun r c => by simp only [entry_invShiftRows, entry_shiftRows, sub_add_cancel]

@[simp] theorem shiftRows_invShiftRows (b : Block) : shiftRows (invShiftRows b) = b :=
  block_ext fun r c => by simp only [entry_invShiftRows, entry_shiftRows, add_sub_cancel_right]

/-- R155's matrix times R156's is the unit matrix too. -/
theorem mixMatrix_mul_invMixMatrix :
    ∀ r j, dot (coeff mixMatrix r) (coeff invMixMatrix · j) = unitRow r j := by decide

@[simp] theorem mixColumns_invMixColumns (b : Block) : mixColumns (invMixColumns b) = b := by
  refine block_ext fun r c => ?_
  calc (mixColumns (invMixColumns b)).entry r c
    _ = dot (coeff mixMatrix r) (fun i => dot (coeff invMixMatrix i) (b.entry · c)) := by
      simp only [entry_invMixColumns, entry_mixColumns, rowTimesColumn_eq_dot]
    _ = dot (unitRow r) (b.entry · c) := by simp only [dot_dot, mixMatrix_mul_invMixMatrix]
    _ = b.entry r c := dot_unitRow (b.entry · c) r

@[simp] theorem addRoundKey_addRoundKey (b : Block) (w : List Word) (r : Nat) :
    addRoundKey (addRoundKey b w r) w r = b :=
  xor_xor_self b (roundKey w r)

/-- A byte-wise and a row-wise primitive commute. -/
theorem subBytes_shiftRows (b : Block) : subBytes (shiftRows b) = shiftRows (subBytes b) :=
  block_ext fun r c => by simp only [entry_subBytes, entry_shiftRows]

theorem invSubBytes_invShiftRows (b : Block) : invSubBytes (invShiftRows b) = invShiftRows (invSubBytes b) :=
  block_ext fun r c => by simp only [entry_invSubBytes, entry_invShiftRows]

/-- Settles O23: the six laws, entry by entry. -/
theorem primitivesHaveInverses : Obligations.PrimitivesHaveInverses :=
  fun s w r => ⟨invSubBytes_subBytes s, invShiftRows_shiftRows s, invMixColumns_mixColumns s,
    addRoundKey_addRoundKey s w r, subBytes_shiftRows s, invSubBytes_invShiftRows s⟩

/-! ## AddRoundKey (R157, R164) -/

theorem col_roundKey (w : List Word) (r : Nat) : ∀ c : Fin 4, (roundKey w r).col c = w.getD (4 * r + c.val) 0
  | 0 | 1 | 2 | 3 => rfl

theorem col_addRoundKey (b : Block) (w : List Word) (r : Nat) (c : Fin 4) :
    (addRoundKey b w r).col c = b.col c ^^^ w.getD (4 * r + c.val) 0 := by
  rw [addRoundKey, col_xor, col_roundKey]

theorem entry_addRoundKey (b : Block) (w : List Word) (r : Nat) (j c : Fin 4) :
    (addRoundKey b w r).entry j c = b.entry j c ^^^ byte (w.getD (4 * r + c.val) 0) j.val := by
  rw [Block.entry, col_addRoundKey, byte_xor, Block.entry]

theorem exec_addRoundKey {s : State} {v : Variant} {ridx : Nat} (hv : selectedVariant s = some v) (hr : ridx ≤ nrOf v) :
    exec (.addRoundKey ridx) s =
      .next (complete .none (storeBlock (addRoundKey s.block (schedule s v) ridx) (expandInto v s))) := by
  simp only [exec, execAddRoundKey, hv, if_neg hr.not_gt]

/-- Settles O21: column by column the round key is its four words of the schedule. -/
theorem addRoundKeyXorsTheRoundKey : Obligations.AddRoundKeyXorsTheRoundKey :=
  ⟨entry_addRoundKey, addRoundKey_addRoundKey, fun s v ridx hkey hr =>
    ⟨addRoundKey s.block (schedule s v) ridx, (expandInto v s).rk, col_addRoundKey _ _ _, expandInto_holdsSchedule v s,
      exec_addRoundKey (selectedVariant_eq_some.mpr hkey) hr⟩⟩

end Sys2Proof.Proofs.Inverses
end

section
/-! PROOFS. Cipher and InvCipher undo each other (43_block_cipher.md section 3): round by round the states of the one
are those of the other with SubBytes and ShiftRows applied or undone. -/
namespace Sys2Proof.Proofs.InverseCipher
open Sys2Proof.Machine Sys2Proof.Spec Sys2Proof.Proofs.KeySchedule Sys2Proof.Proofs.RoundEngine
  Sys2Proof.Proofs.BlockCipher Sys2Proof.Proofs.Inverses

section
variable (w : List Word) (b : Block) {nr r : Nat}

/-- Deciphering what Cipher made passes, before round `r`, through Cipher's state after round `r - 1`, with the two
primitives that begin round `r` applied. -/
theorem decState_cipher (hr : r < nr) :
    decState w nr (cipher w nr b) (r + 1) = shiftRows (subBytes (encState w b r)) := by
  obtain ⟨n, rfl⟩ := Nat.exists_eq_add_of_le' (Nat.zero_lt_of_lt hr)
  refine Nat.decreasingInduction' (fun k hk _ ih => ?_) (Nat.le_of_lt_succ hr) ?_
  · rw [decState_eq_decRound w _ (Nat.succ_lt_succ hk), ih, encState_succ]
    simp [decRound, encRound, invMixColumns_mixColumns]
  · simp [decState_self, cipher_eq_encFinal, encFinal]

/-- Enciphering what InvCipher made passes, after round `r`, through InvCipher's state after round `r + 1`, with the two
primitives that begin round `r` applied. -/
theorem encState_invCipher (hr : r < nr) :
    encState w (invCipher w nr b) r = invSubBytes (invShiftRows (decState w nr b (r + 1))) := by
  induction r with
  | zero => simp [encState, invCipher_eq_decFinal, decFinal]
  | succ r ih => simp [encState_succ, ih (Nat.lt_of_succ_lt hr), encRound, decState_eq_decRound w b hr, decRound]

theorem invCipher_cipher (hnr : 0 < nr) : invCipher w nr (cipher w nr b) = b := by
  simp [invCipher_eq_decFinal, decState_cipher w b hnr, decFinal, encState]

theorem cipher_invCipher (hnr : 0 < nr) : cipher w nr (invCipher w nr b) = b := by
  obtain ⟨n, rfl⟩ := Nat.exists_eq_add_of_le' hnr
  simp [cipher_eq_encFinal, encState_invCipher w b (Nat.lt_succ_self n), encFinal, decState_self]

end

theorem nrOf_pos (v : Variant) : 0 < nrOf v := by cases v <;> decide

/-! ## The block commands (R137, R183, R184) -/

section
variable {s : State} {v : Variant}

theorem exec_expandKey (hv : selectedVariant s = some v) :
    exec .expandKey s = .next (complete .none (expandInto v s)) := by
  simp only [exec, execExpandKey, hv]

theorem exec_encBlock (hv : selectedVariant s = some v) :
    exec .encBlock s =
      .next (complete .none (storeBlock (cipher (schedule s v) (nrOf v) s.block) (expandInto v s))) := by
  simp only [exec, execEncBlock, hv]

theorem exec_decBlock (hv : selectedVariant s = some v) :
    exec .decBlock s =
      .next (complete .none (storeBlock (invCipher (schedule s v) (nrOf v) s.block) (expandInto v s))) := by
  simp only [exec, execDecBlock, hv]

end

/-- Settles O15: the key length selects the variant whose schedule is written. -/
theorem expandKeyWritesTheSchedule : Obligations.ExpandKeyWritesTheSchedule :=
  fun s v hkey => ⟨_, expandInto_holdsSchedule v s, exec_expandKey (selectedVariant_eq_some.mpr hkey)⟩

/-- Settles O27: the key length selects the variant whose schedule is written and used. -/
theorem encBlockEnciphersState : Obligations.EncBlockEnciphersState :=
  fun s v hkey => ⟨_, expandInto_holdsSchedule v s, exec_encBlock (selectedVariant_eq_some.mpr hkey)⟩

/-- Settles O28: the key length selects the variant whose schedule is written and used. -/
theorem decBlockDeciphersState : Obligations.DecBlockDeciphersState :=
  fun s v hkey => ⟨_, expandInto_holdsSchedule v s, exec_decBlock (selectedVariant_eq_some.mpr hkey)⟩

/-- Settles O29: ENC_BLOCK keeps KEY and KEYLEN, so DEC_BLOCK deciphers under the same schedule. -/
theorem decryptionUndoesEncryption : Obligations.DecryptionUndoesEncryption := by
  refine ⟨fun w v b => ⟨invCipher_cipher w b (nrOf_pos v), cipher_invCipher w b (nrOf_pos v)⟩, fun s t v hkey ht => ?_⟩
  have hv : selectedVariant s = some v := selectedVariant_eq_some.mpr hkey
  rw [exec_encBlock hv] at ht
  cases ht
  exact ⟨_, exec_decBlock hv, invCipher_cipher _ _ (nrOf_pos v), rfl⟩

end Sys2Proof.Proofs.InverseCipher
end

section
/-! PROOFS. The round sequencer (R182): its state after each phase, which is that of the cipher's chain of states. -/
namespace Sys2Proof.Proofs.Sequencer
open Sys2Proof.Machine Sys2Proof.Spec Sys2Proof.Proofs.BlockCipher

theorem seqRun_succ (n : Nat) (q : Machine.Sequencer) : seqRun (n + 1) q = seqStep (seqRun n q) := by
  induction n generalizing q with
  | zero => rfl
  | succ n ih => exact ih (seqStep q)

theorem two_le_nrOf (v : Variant) : 2 ≤ nrOf v := by cases v <;> decide

theorem nrOf_eq_pred_add_one (v : Variant) : nrOf v = nrOf v - 1 + 1 := by cases v <;> rfl

theorem nrOf_sub_pred (v : Variant) : nrOf v - (nrOf v - 1) = 1 := by cases v <;> rfl

section
variable (v : Variant) (key : Vector Word 8) (b : Block)

/-- The sequencer in an encryption after KEXP, INIT and `k` rounds. -/
def encPhase (k : Nat) : Machine.Sequencer where
  dir := .encrypt
  variant := v
  key := key
  phase := if k < nrOf v - 1 then .round else .final
  words := keyExpansion key v
  rc := k + 1
  block := encState (keyExpansion key v) b k

/-- The sequencer in a decryption after KEXP, INIT and `k` rounds. -/
def decPhase (k : Nat) : Machine.Sequencer where
  dir := .decrypt
  variant := v
  key := key
  phase := if k < nrOf v - 1 then .round else .final
  words := keyExpansion key v
  rc := nrOf v - 1 - k
  block := decState (keyExpansion key v) (nrOf v) b (nrOf v - k)

theorem seqRun_encrypt {k : Nat} (hk : k ≤ nrOf v - 1) :
    seqRun (k + 2) (seqStart .encrypt v key b) = encPhase v key b k := by
  induction k with
  | zero =>
    have hrounds : 0 < nrOf v - 1 := Nat.sub_pos_of_lt (two_le_nrOf v)
    simp [seqRun, seqStep, seqStart, seqInit, encPhase, encState, hrounds]
  | succ k ih =>
    rw [seqRun_succ, ih (Nat.le_of_succ_le hk)]
    simp [seqStep, encPhase, Nat.lt_of_succ_le hk, seqRound, encState_succ]

theorem seqRun_decrypt {k : Nat} (hk : k ≤ nrOf v - 1) :
    seqRun (k + 2) (seqStart .decrypt v key b) = decPhase v key b k := by
  induction k with
  | zero =>
    have hrounds : 0 < nrOf v - 1 := Nat.sub_pos_of_lt (two_le_nrOf v)
    simp [seqRun, seqStep, seqStart, seqInit, decPhase, decState_self, hrounds]
  | succ k ih =>
    have hround : nrOf v - (k + 1) < nrOf v := by omega
    have hnext : nrOf v - (k + 1) + 1 = nrOf v - k := by omega
    have hrc : nrOf v - 1 - k = nrOf v - (k + 1) := by omega
    have hleft : 1 ≤ nrOf v - 1 - (k + 1) ↔ k + 1 < nrOf v - 1 := by omega
    have hrc' : nrOf v - (k + 1) - 1 = nrOf v - 1 - (k + 1) := by omega
    rw [seqRun_succ, ih (Nat.le_of_succ_le hk)]
    simp only [seqStep, decPhase, Nat.lt_of_succ_le hk, if_true, seqRound, decState_eq_decRound _ _ hround, hnext, hrc,
      hleft, hrc']

theorem seqRun_encrypt_end :
    seqRun (nrOf v + 2) (seqStart .encrypt v key b) = seqFinal (encPhase v key b (nrOf v - 1)) := by
  rw [seqRun_succ, nrOf_eq_pred_add_one, seqRun_encrypt v key b le_rfl]
  simp [seqStep, encPhase]

theorem seqRun_decrypt_end :
    seqRun (nrOf v + 2) (seqStart .decrypt v key b) = seqFinal (decPhase v key b (nrOf v - 1)) := by
  rw [seqRun_succ, nrOf_eq_pred_add_one, seqRun_decrypt v key b le_rfl]
  simp [seqStep, decPhase]

end

/-- Settles O26: after KEXP, INIT and `k` rounds the sequencer holds the cipher's state of round `k`; FINAL follows the
last. -/
theorem sequencerComputesTheCiphers : Obligations.SequencerComputesTheCiphers := by
  intro v key b
  have hfinal : nrOf v + 1 = nrOf v - 1 + 2 := congrArg (· + 1) (nrOf_eq_pred_add_one v)
  refine ⟨fun dir => ?_, ?_, ?_, fun dir k hk => ?_, fun k hk => ?_, fun k hk => ?_, fun dir => ?_⟩
  · cases dir with
    | encrypt => rw [seqRun_encrypt_end]; rfl
    | decrypt => rw [seqRun_decrypt_end]; rfl
  · rw [seqRun_encrypt_end, cipher_eq_encFinal]
    rfl
  · simp [seqRun_decrypt_end, seqFinal, decPhase, nrOf_sub_pred, invCipher_eq_decFinal]
  · cases dir with
    | encrypt => simp [seqRun_encrypt v key b hk.le, encPhase, hk]
    | decrypt => simp [seqRun_decrypt v key b hk.le, decPhase, hk]
  · rw [seqRun_encrypt v key b hk.le]
    rfl
  · rw [seqRun_decrypt v key b hk.le]
    rfl
  · rw [hfinal]
    cases dir with
    | encrypt => simp [seqRun_encrypt v key b le_rfl, encPhase]
    | decrypt => simp [seqRun_decrypt v key b le_rfl, decPhase]

end Sys2Proof.Proofs.Sequencer
end

section
/-! PROOFS. Padded streams (R201, R202): the last byte of a stream that ends in `p` copies of `p` is `p`, so `padOk` and
`unpad` find where the padding begins. -/
namespace Sys2Proof.Proofs.Unpadding
open Sys2Proof.Machine Sys2Proof.Proofs.Padding

section
variable {m q : List Byte} {p : Nat}

/-- `p` copies of the byte `p`. -/
abbrev padding (p : Nat) : List Byte := List.replicate p (BitVec.ofNat 8 p)

theorem lastByte_append_padding (m : List Byte) (hpos : 1 ≤ p) (hle : p ≤ 16) : lastByte (m ++ padding p) = p := by
  have hlast : m.length ≤ (m ++ padding p).length - 1 := by
    rw [List.length_append, List.length_replicate]
    omega
  have hin : (m ++ padding p).length - 1 - m.length < p := by
    rw [List.length_append, List.length_replicate]
    omega
  have hbyte : (padding p).getD ((m ++ padding p).length - 1 - m.length) 0 = BitVec.ofNat 8 p :=
    List.getD_replicate _ hin
  rw [lastByte, List.getD_append_right _ _ _ _ hlast, hbyte, BitVec.toNat_ofNat]
  omega

theorem length_sub_padding (m : List Byte) (p : Nat) : (m ++ padding p).length - p = m.length := by
  rw [List.length_append, List.length_replicate, Nat.add_sub_cancel]

/-- R201: the conditions of `padOk`, the last as an equation of streams. -/
theorem padOk_iff : padOk q = true ↔ 0 < q.length ∧ q.length % 16 = 0 ∧ 1 ≤ lastByte q ∧ lastByte q ≤ 16 ∧
    lastByte q ≤ q.length ∧ q.drop (q.length - lastByte q) = padding (lastByte q) := by
  simp only [padOk, Bool.and_eq_true, decide_eq_true_eq, beq_iff_eq, and_assoc]

theorem padOk_append_padding (hpos : 1 ≤ p) (hle : p ≤ 16) (hlen : (m ++ padding p).length % 16 = 0) :
    padOk (m ++ padding p) = true := by
  have hlength : (m ++ padding p).length = m.length + p := by rw [List.length_append, List.length_replicate]
  rw [padOk_iff, lastByte_append_padding m hpos hle, length_sub_padding, List.drop_left]
  exact ⟨by omega, hlen, hpos, hle, by omega, rfl⟩

theorem unpad_append_padding (m : List Byte) (hpos : 1 ≤ p) (hle : p ≤ 16) : unpad (m ++ padding p) = m := by
  rw [unpad, lastByte_append_padding m hpos hle, length_sub_padding, List.take_left]

theorem pad_length_mod (m : List Byte) : (pad m).length % 16 = 0 := by
  rw [pad_length, paddedLen, Nat.mul_mod_right]

theorem lastByte_pad (m : List Byte) : lastByte (pad m) = padLen m.length := by
  obtain ⟨hpos, hle⟩ := padLen_bounds m.length
  exact lastByte_append_padding m hpos hle

end

/-- Settles O31: the padding that `padOk` accepts begins `q[L-1]` bytes before the end. -/
theorem padOkAcceptsExactlyPaddedStreams : Obligations.PadOkAcceptsExactlyPaddedStreams := by
  intro q
  constructor
  · intro h
    obtain ⟨hne, hlen, hpos, hle, -, hdrop⟩ := padOk_iff.mp h
    refine ⟨hne, hlen, unpad q, lastByte q, hpos, hle, ?_⟩
    change q = unpad q ++ padding (lastByte q)
    rw [unpad, ← hdrop, List.take_append_drop]
  · rintro ⟨-, hlen, m, p, hpos, hle, rfl⟩
    exact padOk_append_padding hpos hle hlen

/-- Settles O32: what `pad` appends is a padding of 1 to 16 bytes. -/
theorem unpadRecoversThePaddedInput : Obligations.UnpadRecoversThePaddedInput := by
  intro m
  obtain ⟨hpos, hle⟩ := padLen_bounds m.length
  exact ⟨padOk_append_padding hpos hle (pad_length_mod m), unpad_append_padding m hpos hle⟩

end Sys2Proof.Proofs.Unpadding
end

section
/-! PROOFS. Block chaining as functions on lists of blocks (R205, R206, R210): CBC decryption undoes CBC encryption, and
a changed block changes the ciphertext from its place on. -/
namespace Sys2Proof.Proofs.Chaining
open Sys2Proof.Machine

section
variable {f g : Block → Block}

theorem cbcDecrypt_cbcEncrypt (h : ∀ b, g (f b) = b) (iv : Block) (ps : List Block) :
    cbcDecrypt g iv (cbcEncrypt f iv ps) = ps := by
  induction ps generalizing iv with
  | nil => rfl
  | cons p ps ih => rw [cbcEncrypt, cbcDecrypt, h, xor_xor_self, ih]

theorem getElem_cbcEncrypt_zero (f : Block → Block) (iv : Block) (ps : List Block) (h : 0 < ps.length) :
    (cbcEncrypt f iv ps)[0]'(by rwa [cbcEncrypt_length]) = f (ps[0].xor iv) := by
  cases ps with
  | nil => simp at h
  | cons p ps => rfl

/-- The running IV of block `j + 1` is ciphertext block `j` (R205). -/
theorem getElem_cbcEncrypt_succ (f : Block → Block) (iv : Block) (ps : List Block) (j : Nat) (hj : j + 1 < ps.length) :
    (cbcEncrypt f iv ps)[j + 1]'(by rwa [cbcEncrypt_length]) =
      f (ps[j + 1].xor ((cbcEncrypt f iv ps)[j]'(by rw [cbcEncrypt_length]; omega))) := by
  induction ps generalizing iv j with
  | nil => simp at hj
  | cons p ps ih =>
    cases j with
    | zero =>
      obtain _ | ⟨p', ps⟩ := ps
      · simp at hj
      · rfl
    | succ j => exact ih (f (p.xor iv)) j (Nat.lt_of_succ_lt_succ hj)

/-! ## A changed block (44_modes.md section 4) -/

theorem xor_comm (a b : Block) : a.xor b = b.xor a := by simp only [Block.xor, BitVec.xor_comm]

theorem xor_right_cancel {a b x : Block} (h : a.xor x = b.xor x) : a = b := by
  rw [← xor_xor_self a x, h, xor_xor_self]

theorem xor_left_cancel {a b x : Block} (h : x.xor a = x.xor b) : a = b :=
  xor_right_cancel (show a.xor x = b.xor x by rwa [xor_comm a, xor_comm b])

/-- Blocks before the changed one are not reached by the change. -/
theorem getElem?_cbcEncrypt_set_of_lt (f : Block → Block) (iv : Block) (ps : List Block) (p : Block) {i j : Nat}
    (hj : j < i) : (cbcEncrypt f iv (ps.set i p))[j]? = (cbcEncrypt f iv ps)[j]? := by
  induction ps generalizing iv i j with
  | nil => rfl
  | cons p₀ ps ih =>
    obtain ⟨i, rfl⟩ := Nat.exists_eq_add_of_le' (Nat.zero_lt_of_lt hj)
    cases j with
    | zero => rfl
    | succ j => exact ih (f (p₀.xor iv)) (Nat.lt_of_succ_lt_succ hj)

/-- Two running IVs that differ give different ciphertext blocks, each of which is the next running IV. -/
theorem getElem?_cbcEncrypt_ne_of_iv_ne (hf : Function.Injective f) (ps : List Block) {iv iv' : Block} {j : Nat}
    (hiv : iv ≠ iv') (hj : j < ps.length) : (cbcEncrypt f iv ps)[j]? ≠ (cbcEncrypt f iv' ps)[j]? := by
  induction ps generalizing iv iv' j with
  | nil => simp at hj
  | cons p ps ih =>
    have hhead : f (p.xor iv) ≠ f (p.xor iv') := fun h => hiv (xor_left_cancel (hf h))
    cases j with
    | zero => exact fun h => hhead (Option.some.inj h)
    | succ j => exact ih hhead (Nat.lt_of_succ_lt_succ hj)

theorem getElem?_cbcEncrypt_set_ne (hf : Function.Injective f) (iv : Block) (ps : List Block) {p : Block} {i j : Nat}
    (hp : ps[i]? ≠ some p) (hij : i ≤ j) (hj : j < ps.length) :
    (cbcEncrypt f iv (ps.set i p))[j]? ≠ (cbcEncrypt f iv ps)[j]? := by
  induction ps generalizing iv i j with
  | nil => simp at hj
  | cons p₀ ps ih =>
    cases i with
    | zero =>
      have hne : p ≠ p₀ := fun h => hp (congrArg some h.symm)
      have hhead : f (p.xor iv) ≠ f (p₀.xor iv) := fun h => hne (xor_right_cancel (hf h))
      cases j with
      | zero => exact fun h => hhead (Option.some.inj h)
      | succ j => exact getElem?_cbcEncrypt_ne_of_iv_ne hf ps hhead (Nat.lt_of_succ_lt_succ hj)
    | succ i =>
      obtain ⟨j, rfl⟩ := Nat.exists_eq_add_of_le' (Nat.zero_lt_of_lt hij)
      exact ih (f (p₀.xor iv)) hp (Nat.le_of_succ_le_succ hij) (Nat.lt_of_succ_lt_succ hj)

end

end Sys2Proof.Proofs.Chaining
end

section
/-! PROOFS. The mode commands that succeed (R203-R208): what they leave in OUT_BUF and OUT_LEN, for any mode that maps
blocks to as many blocks, and then for ECB and CBC. -/
namespace Sys2Proof.Proofs.Modes
open Sys2Proof.Machine Sys2Proof.Spec Sys2Proof.Proofs.KeySchedule Sys2Proof.Proofs.Operands
  Sys2Proof.Proofs.Decryption Sys2Proof.Proofs.InverseCipher Sys2Proof.Proofs.Unpadding Sys2Proof.Proofs.Chaining

/-! ## OUT_BUF as a byte string -/

/-- OUT_BUF begins with the byte string `x`. -/
abbrev OutputIs (t : State) (x : List Byte) : Prop := ∀ a, a < x.length → bufferByte t .outBuf a = x.getD a 0

theorem outBlock_of_outputIs {t : State} {x : List Byte} (h : OutputIs t x) {j : Nat} (hj : j < x.length / 16) :
    outBlock t j = blockAt x j := by
  have hbyte {k : Nat} (hk : k < 16 * (j + 1)) : bufferByte t .outBuf k = x.getD k 0 := h k (by omega)
  simp (disch := omega) only [blockAt, wordAt, outBlock, bufferWord, hbyte]

section
variable {s : State} {v : Variant} {x : List Byte} {n : Nat}

/-- The end of a mode command that wrote `x` and put `n` in OUT_LEN. -/
abbrev finished (x : List Byte) (n : Nat) (v : Variant) (s : State) : State :=
  complete .none (setOutLen n (memWrite 0 x (expandInto v s)))

theorem finished_outByte (x : List Byte) (n : Nat) (v : Variant) (s : State) (a : Nat) :
    bufferByte (finished x n v s) .outBuf a = if a < x.length then x.getD a 0 else bufferByte s .outBuf a := by
  rw [complete_bufferByte, setOutLen_bufferByte, memWrite_outByte]
  simp

theorem outputIs_finished (x : List Byte) (n : Nat) (v : Variant) (s : State) : OutputIs (finished x n v s) x :=
  fun a ha => by rw [finished_outByte, if_pos ha]

theorem wroteOutput_finished (x : List Byte) (n : Nat) (v : Variant) (s : State) :
    WroteOutput s (finished x n v s) v x.length :=
  ⟨rfl, expandInto_holdsSchedule v s, fun a ha => by rw [finished_outByte, if_neg ha.not_gt]⟩

/-- OUT_LEN has room for BUF_BYTES, so for every output that fits (R32). -/
theorem finished_outLen (hn : n ≤ bufBytes s) : (finished x n v s).outLen.toNat = n := by
  have hsize := bufBytes_le s
  change (BitVec.ofNat 17 n).toNat = n
  rw [BitVec.toNat_ofNat, Nat.mod_eq_of_lt (by omega)]

end

/-! ## Encryption (R203, R205) -/

/-- The blocks of the padded input stream. -/
abbrev paddedBlocks (s : State) : List Block := blocksOf (pad (streamBytes s))

theorem paddedBlocks_length (s : State) : (paddedBlocks s).length = streamLen s / 16 + 1 := by
  rw [blocksOf_length, pad_length, streamBytes_length, paddedLen]
  omega

theorem getElem_paddedBlocks (s : State) {j : Nat} (hj : j < (paddedBlocks s).length) :
    (paddedBlocks s)[j] = paddedBlock s j := by
  simp [blocksOf]

section
variable {s : State} {v : Variant} {mode : Variant → State → List Block → List Block}

theorem wroteOutput_encryptWith (hmode : ∀ bs, (mode v s bs).length = bs.length) :
    WroteOutput s (encryptWith mode v s) v (16 * (streamLen s / 16 + 1)) := by
  have h := wroteOutput_finished (encryptBytes (mode v s) s) (paddedLen (streamLen s)) v s
  rwa [encryptBytes_length hmode] at h

theorem encryptWith_outLen (hfits : streamLen s < bufBytes s) :
    (encryptWith mode v s).outLen.toNat = 16 * (streamLen s / 16 + 1) :=
  finished_outLen ((paddedLen_le_bufBytes s _).mpr hfits)

theorem encryptWith_outBlock (hmode : ∀ bs, (mode v s bs).length = bs.length) {j : Nat}
    (hj : j < (mode v s (paddedBlocks s)).length) :
    outBlock (encryptWith mode v s) j = (mode v s (paddedBlocks s))[j] := by
  have hout := outputIs_finished (encryptBytes (mode v s) s) (paddedLen (streamLen s)) v s
  have hj' : j < (encryptBytes (mode v s) s).length / 16 := by
    rw [hmode, paddedBlocks_length] at hj
    rw [encryptBytes_length hmode, paddedLen]
    omega
  exact (outBlock_of_outputIs hout hj').trans (blockAt_bytesOf _ j hj)

end

section
variable {s : State} {v : Variant}

theorem runEncrypt_of_fits (mode : Variant → State → List Block → List Block) (hkey : KeyLengthOf v s)
    (hfits : streamLen s < bufBytes s) :
    runMode encryptCheck (encryptWith mode) s = .next (encryptWith mode v s) :=
  runMode_of_ok _ (encryptCheck_of_fits (selectedVariant_eq_some.mpr hkey) hfits)

theorem exec_ecbEnc_of_fits (hkey : KeyLengthOf v s) (hfits : streamLen s < bufBytes s) :
    exec .ecbEnc s = .next (encryptWith ecbEncBlocks v s) :=
  (exec_ecbEnc s).trans (runEncrypt_of_fits ecbEncBlocks hkey hfits)

theorem exec_cbcEnc_of_fits (hkey : KeyLengthOf v s) (hfits : streamLen s < bufBytes s) :
    exec .cbcEnc s = .next (encryptWith cbcEncBlocks v s) :=
  (exec_cbcEnc s).trans (runEncrypt_of_fits cbcEncBlocks hkey hfits)

theorem outBlock_ecbEnc {j : Nat} (hj : j < streamLen s / 16 + 1) :
    outBlock (encryptWith ecbEncBlocks v s) j = cipher (schedule s v) (nrOf v) (paddedBlock s j) := by
  have hlen : j < (ecbEncBlocks v s (paddedBlocks s)).length := by rwa [ecbEncBlocks_length, paddedBlocks_length]
  rw [encryptWith_outBlock (ecbEncBlocks_length v s) hlen]
  simp only [ecbEncBlocks, List.getElem_map, getElem_paddedBlocks]

end

/-- Settles O33: the output is the list of enciphered blocks. -/
theorem ecbEncEnciphersEachBlock : Obligations.EcbEncEnciphersEachBlock :=
  fun s v hkey hfits => ⟨_, exec_ecbEnc_of_fits hkey hfits, wroteOutput_encryptWith (ecbEncBlocks_length v s),
    encryptWith_outLen hfits, fun _ => outBlock_ecbEnc⟩

/-- Settles O34: the output is the chain of ciphertext blocks, each the running IV of the next. -/
theorem cbcEncChainsCiphertextBlocks : Obligations.CbcEncChainsCiphertextBlocks := by
  intro s v hkey hfits
  have hblock {j : Nat} (hj : j < streamLen s / 16 + 1) : outBlock (encryptWith cbcEncBlocks v s) j =
      (cbcEncBlocks v s (paddedBlocks s))[j]'(by rwa [cbcEncBlocks_length, paddedBlocks_length]) :=
    encryptWith_outBlock (cbcEncBlocks_length v s) _
  refine ⟨_, exec_cbcEnc_of_fits hkey hfits, wroteOutput_encryptWith (cbcEncBlocks_length v s),
    encryptWith_outLen hfits, ?_, fun j hj => ?_⟩
  · rw [hblock (Nat.succ_pos _)]
    simp only [cbcEncBlocks]
    rw [getElem_cbcEncrypt_zero _ _ _ (by rw [paddedBlocks_length]; omega), getElem_paddedBlocks]
  · rw [hblock (Nat.succ_lt_succ hj), hblock (Nat.lt_succ_of_lt hj)]
    simp only [cbcEncBlocks]
    rw [getElem_cbcEncrypt_succ _ _ _ _ (by rw [paddedBlocks_length]; omega), getElem_paddedBlocks]

/-! ## Decryption (R204, R206) -/

section
variable {s : State} {v : Variant} {q : List Byte} {mode : Variant → State → List Block → List Block}

theorem decryptWith_eq_finished (hq : q = decryptBytes (mode v s) s) (hpad : padOk q = true) :
    decryptWith mode v s = finished q (streamLen s - lastByte q) v s := by
  rw [decryptWith, ← hq, finishDecrypt, if_pos hpad, expandInto_streamLen]

theorem runDecrypt_of_padOk (hkey : KeyLengthOf v s) (hfits : streamLen s ≤ bufBytes s)
    (haligned : streamLen s % 16 = 0) (hq : q = decryptBytes (mode v s) s) (hpad : padOk q = true) :
    runMode decryptCheck (decryptWith mode) s = .next (finished q (streamLen s - lastByte q) v s) := by
  have hcheck := decryptCheck_of_fits (selectedVariant_eq_some.mpr hkey) hfits haligned
  rw [runMode_of_ok _ hcheck, decryptWith_eq_finished hq hpad]

/-- What a decrypt command whose stream `q` is correctly padded leaves. -/
theorem finished_decryption (hfits : streamLen s ≤ bufBytes s) (hlen : q.length = streamLen s) :
    WroteOutput s (finished q (streamLen s - lastByte q) v s) v (streamLen s) ∧
      (finished q (streamLen s - lastByte q) v s).outLen.toNat = streamLen s - (q.getD (streamLen s - 1) 0).toNat ∧
      ∀ a, a < streamLen s → bufferByte (finished q (streamLen s - lastByte q) v s) .outBuf a = q.getD a 0 := by
  refine ⟨hlen ▸ wroteOutput_finished q _ v s, ?_, hlen ▸ outputIs_finished q _ v s⟩
  rw [finished_outLen (by omega), lastByte, hlen]

end

/-- Settles O35: the stream the blocks determine is the one the command decrypts and writes. -/
theorem ecbDecDeciphersEachBlock : Obligations.EcbDecDeciphersEachBlock := by
  intro s v q hkey hfits haligned hq hpad
  have hstream := eq_decryptBytes_of_isEcbDecryption haligned hq
  exact ⟨_, (exec_ecbDec s).trans (runDecrypt_of_padOk hkey hfits haligned hstream hpad), finished_decryption hfits hq.1⟩

/-- Settles O36: the stream the blocks determine, with the running IV, is the one the command decrypts and writes. -/
theorem cbcDecUnchainsCiphertextBlocks : Obligations.CbcDecUnchainsCiphertextBlocks := by
  intro s v q hkey hfits haligned hq hpad
  have hstream := eq_decryptBytes_of_isCbcDecryption haligned hq
  exact ⟨_, (exec_cbcDec s).trans (runDecrypt_of_padOk hkey hfits haligned hstream hpad), finished_decryption hfits hq.1⟩

/-! ## Encryption and decryption together (44_modes.md section 4) -/

section
variable {s t u x : State} {v : Variant} {encMode decMode : Variant → State → List Block → List Block}

/-- IN_BUF and IN_LEN of `u` hold what `t` has in OUT_BUF and OUT_LEN. -/
abbrev HoldsOutputOf (u t : State) : Prop :=
  u.inLen = t.outLen ∧ ∀ a, a < t.outLen.toNat → bufferByte u .inBuf a = bufferByte t .outBuf a

theorem streamBytes_of_outputIs {x : List Byte} (hlen : t.outLen.toNat = x.length) (hout : OutputIs t x)
    (hcopy : HoldsOutputOf u t) : streamBytes u = x := by
  obtain ⟨hinLen, hbytes⟩ := hcopy
  have hstream : streamLen u = x.length := (congrArg BitVec.toNat hinLen).trans hlen
  refine List.ext_getElem (by rw [streamBytes_length, hstream]) fun a _ ha => ?_
  rw [← List.getD_eq_getElem _ 0, ← List.getD_eq_getElem _ 0, streamBytes, memRead_getD (hstream ▸ ha), Nat.zero_add,
    hbytes a (hlen ▸ ha), hout a ha]

/-- A mode that undoes the encrypting mode gives the padded stream back. -/
theorem decryptBytes_encryptWith (hmode : ∀ bs, (encMode v s bs).length = bs.length)
    (hinverse : ∀ bs, decMode v u (encMode v s bs) = bs) (hfits : streamLen s < bufBytes s)
    (hcopy : HoldsOutputOf u (encryptWith encMode v s)) :
    decryptBytes (decMode v u) u = pad (streamBytes s) := by
  have hlen : (encryptWith encMode v s).outLen.toNat = (encryptBytes (encMode v s) s).length := by
    rw [encryptWith_outLen hfits, encryptBytes_length hmode, paddedLen]
  rw [decryptBytes, streamBytes_of_outputIs hlen (outputIs_finished _ _ v s) hcopy, encryptBytes, blocksOf_bytesOf,
    hinverse, bytesOf_blocksOf _ (pad_length_mod _)]

theorem paddedLen_sub_padLen (n : Nat) : paddedLen n - padLen n = n := by
  unfold paddedLen padLen
  split <;> omega

/-- The output of a decrypt command whose stream is the padded input of `s`: that input, in its length. -/
theorem finished_pad (hlen : streamLen u = paddedLen (streamLen s)) (hfits : streamLen s < bufBytes u)
    (hx : x = finished (pad (streamBytes s)) (streamLen u - lastByte (pad (streamBytes s))) v u) :
    x.status.err = 0 ∧ x.outLen.toNat = streamLen s ∧
      ∀ a, a < streamLen s → bufferByte x .outBuf a = bufferByte s .inBuf a := by
  rw [lastByte_pad, streamBytes_length, hlen, paddedLen_sub_padLen] at hx
  subst hx
  refine ⟨rfl, finished_outLen hfits.le, fun a ha => ?_⟩
  have hin : a < (streamBytes s).length := by rwa [streamBytes_length]
  have hpad : a < (pad (streamBytes s)).length := Nat.lt_of_lt_of_le hin (by simp [pad])
  rw [finished_outByte, if_pos hpad, pad, List.getD_append _ _ _ _ hin, streamBytes, memRead_getD ha, Nat.zero_add]

/-- A decrypt command on a machine that holds the output of an encrypt command whose mode it undoes. -/
theorem runDecrypt_encryptWith (hmode : ∀ bs, (encMode v s bs).length = bs.length)
    (hinverse : ∀ bs, decMode v u (encMode v s bs) = bs) (hkey : KeyLengthOf v u) (hfits : streamLen s < bufBytes s)
    (hsize : u.bufBlocks = s.bufBlocks) (hcopy : HoldsOutputOf u (encryptWith encMode v s)) :
    ∃ x, runMode decryptCheck (decryptWith decMode) u = .next x ∧ x.status.err = 0 ∧ x.outLen.toNat = streamLen s ∧
      ∀ a, a < streamLen s → bufferByte x .outBuf a = bufferByte s .inBuf a := by
  have hlen : streamLen u = paddedLen (streamLen s) :=
    (congrArg BitVec.toNat hcopy.1).trans (encryptWith_outLen hfits)
  have hsize' : bufBytes u = bufBytes s := by rw [bufBytes, bufBytes, hsize]
  have hle : streamLen u ≤ bufBytes u := hlen ▸ hsize' ▸ (paddedLen_le_bufBytes s _).mpr hfits
  have haligned : streamLen u % 16 = 0 := by rw [hlen, paddedLen, Nat.mul_mod_right]
  have hq := (decryptBytes_encryptWith hmode hinverse hfits hcopy).symm
  have hpad : padOk (pad (streamBytes s)) = true := (unpadRecoversThePaddedInput _).1
  exact ⟨_, runDecrypt_of_padOk hkey hle haligned hq hpad, finished_pad hlen (hsize' ▸ hfits) rfl⟩

end

/-- Settles O38: the second machine has the key, and for CBC the IV, under which its command undoes the first. -/
theorem modeRoundTripRestoresTheStream : Obligations.ModeRoundTripRestoresTheStream := by
  intro s t u v enc dec hmodes hkey hfits ht hkeylen hukey huiv hsize hinLen hbytes
  have hkey' : KeyLengthOf v u := by rwa [KeyLengthOf, hkeylen]
  have hinverse (b : Block) : invCipher (schedule u v) (nrOf v) (cipher (schedule s v) (nrOf v) b) = b := by
    rw [schedule, hukey]
    exact invCipher_cipher _ b (nrOf_pos v)
  obtain ⟨rfl, rfl⟩ | ⟨rfl, rfl⟩ := hmodes
  · cases (exec_ecbEnc_of_fits hkey hfits).symm.trans ht
    rw [exec_ecbDec]
    refine runDecrypt_encryptWith (ecbEncBlocks_length v s) (fun bs => ?_) hkey' hfits hsize ⟨hinLen, hbytes⟩
    have hid : invCipher (schedule u v) (nrOf v) ∘ cipher (schedule s v) (nrOf v) = id := funext hinverse
    rw [ecbEncBlocks, ecbDecBlocks, List.map_map, hid, List.map_id]
  · cases (exec_cbcEnc_of_fits hkey hfits).symm.trans ht
    rw [exec_cbcDec]
    refine runDecrypt_encryptWith (cbcEncBlocks_length v s) (fun bs => ?_) hkey' hfits hsize ⟨hinLen, hbytes⟩
    rw [cbcEncBlocks, cbcDecBlocks, huiv, cbcDecrypt_cbcEncrypt hinverse]

theorem cipher_injective (w : List Word) (v : Variant) : Function.Injective (cipher w (nrOf v)) :=
  Function.LeftInverse.injective fun b => invCipher_cipher w b (nrOf_pos v)

/-- Settles O39: an ECB block depends on its plaintext block alone; CBC carries a change on through the running IV, as
Cipher is injective. -/
theorem chainingSpreadsAChangeForwardOnly : Obligations.ChainingSpreadsAChangeForwardOnly := by
  refine ⟨fun s t v i j hkey hfits ht hi hj hblock => ?_,
    fun w v iv ps i p _ hp => ⟨fun j hj => ?_, fun j hij hj => ?_⟩⟩
  · cases (exec_ecbEnc_of_fits hkey hfits).symm.trans ht
    rw [outBlock_ecbEnc hi, outBlock_ecbEnc hj, hblock]
  · exact getElem?_cbcEncrypt_set_of_lt _ iv ps p hj
  · exact getElem?_cbcEncrypt_set_ne (cipher_injective w v) iv ps hp hij hj

end Sys2Proof.Proofs.Modes
end

section
/-! PROOFS. The frame of a command (R32-R35, R253): what no command writes, and what only some commands write. -/
namespace Sys2Proof.Proofs.Frame
open Sys2Proof.Machine Sys2Proof.Spec Sys2Proof.Proofs.Operands Sys2Proof.Proofs.Completion

section
variable {i : Instr} {s t : State}

/-! ## What no command writes -/

theorem commandShape_keeps_inputs (h : CommandShape s t) :
    t.ctrl = s.ctrl ∧ t.inLen = s.inLen ∧ t.key = s.key ∧ t.iv = s.iv ∧
      ∀ a, bufferByte t .inBuf a = bufferByte s .inBuf a := by
  cases h with
  | failed => simp
  | primitive | expanded | keyed | wrote | badPadding => exact ⟨rfl, rfl, rfl, rfl, fun _ => rfl⟩

/-- No error, ERR_INVALID_PADDING included, leaves a changed STATE. -/
theorem commandShape_error_keeps_block (h : CommandShape s t) (herr : t.status.err ≠ 0) : t.block = s.block := by
  cases h with
  | failed => exact raise_block ..
  | primitive | expanded | keyed | wrote => exact absurd rfl herr
  | badPadding => rfl

/-- The number of resets is no command's to change, so the free contents of the buffers stay too (R272). -/
theorem commandShape_resets (h : CommandShape s t) : t.resets = s.resets := by
  cases h with
  | failed => exact raise_resets ..
  | primitive | expanded | keyed | wrote | badPadding => rfl

theorem commandShape_outByte (h : CommandShape s t) (hout : t.outBuf = s.outBuf) (a : Nat) :
    bufferByte t .outBuf a = bufferByte s .outBuf a := by
  simp only [bufferByte, hout, commandShape_resets h]

/-! ## What only some commands write -/

theorem finishDecrypt_block (q : List Byte) (s : State) : (finishDecrypt q s).block = s.block := by
  unfold finishDecrypt
  split <;> rfl

theorem runMode_block {check : State → Except ErrCode Variant} {finish : Variant → State → State}
    (hfinish : ∀ v, (finish v s).block = s.block) (h : runMode check finish s = .next t) : t.block = s.block := by
  unfold runMode at h
  split at h <;> cases h
  · exact raise_block ..
  · exact hfinish _

/-- R35: EXPAND_KEY and the mode commands do not write STATE. -/
theorem block_of_not_writesBlock (hi : writesBlock i = false) (h : exec i s = .next t) : t.block = s.block := by
  cases i with
  | expandKey =>
    simp only [exec, execExpandKey] at h
    split at h <;> cases h <;> rfl
  | ecbEnc | cbcEnc =>
    simp only [exec_ecbEnc, exec_cbcEnc] at h
    exact runMode_block (fun _ => rfl) h
  | ecbDec | cbcDec =>
    simp only [exec_ecbDec, exec_cbcDec] at h
    exact runMode_block (fun v => finishDecrypt_block _ (expandInto v s)) h
  | encBlock | decBlock | subBytes | invSubBytes | shiftRows | invShiftRows | mixColumns | invMixColumns
  | addRoundKey => cases hi

/-- R32, R253: a command that is no mode command writes neither OUT_LEN nor OUT_BUF, with or without an error. -/
theorem output_of_not_isModeCommand (hi : isModeCommand i = false) (h : exec i s = .next t) :
    t.outLen = s.outLen ∧ t.outBuf = s.outBuf := by
  cases i with
  | expandKey | encBlock | decBlock =>
    simp only [exec, execExpandKey, execEncBlock, execDecBlock] at h
    split at h <;> cases h <;> exact ⟨rfl, rfl⟩
  | addRoundKey =>
    simp only [exec, execAddRoundKey] at h
    split at h
    · cases h
      exact ⟨rfl, rfl⟩
    · split at h <;> cases h <;> exact ⟨rfl, rfl⟩
  | subBytes | invSubBytes | shiftRows | invShiftRows | mixColumns | invMixColumns =>
    cases h
    exact ⟨rfl, rfl⟩
  | ecbEnc | ecbDec | cbcEnc | cbcDec => cases hi

end

/-- Settles O46: the shape of the command's end, and the commands one by one for what they may write. -/
theorem commandsWriteOnlyTheirResults : Obligations.CommandsWriteOnlyTheirResults := by
  intro i s t h
  have hshape : CommandShape s t := by
    obtain ⟨u, hu, hshape⟩ := exec_shape i s
    cases hu.symm.trans h
    exact hshape
  obtain ⟨hctrl, hinLen, hkey, hiv, hinBuf⟩ := commandShape_keeps_inputs hshape
  refine ⟨hctrl, hinLen, hkey, hiv, hinBuf, fun hi => block_of_not_writesBlock hi h, fun hi => ?_,
    commandShape_error_keeps_block hshape, fun hzero hpad => ?_⟩
  · obtain ⟨hlen, hout⟩ := output_of_not_isModeCommand hi h
    exact ⟨hlen, commandShape_outByte hshape hout⟩
  · obtain ⟨-, hrk, hout⟩ := commandShape_error_before_work hshape hzero hpad
    exact ⟨hrk, commandShape_outByte hshape hout⟩

end Sys2Proof.Proofs.Frame
end

section
/-! PROOFS. What a host read answers (R22-R36, R61, R68): the addresses of the locations, and the value of each, field by
field. -/
namespace Sys2Proof.Proofs.Registers
open Sys2Proof.Machine Sys2Proof.Spec Sys2Proof.Proofs.Bus

/-! ## The locations of the map (R61) -/

section
variable {size n : Nat}

theorem locate_key (i : Fin 8) : locate size (0x20 + 4 * i.val) = some (.key i) := by
  fin_cases i <;> rfl

theorem locate_iv (i : Fin 4) : locate size (0x40 + 4 * i.val) = some (.iv i) := by
  fin_cases i <;> rfl

theorem locate_state (i : Fin 4) : locate size (0x50 + 4 * i.val) = some (.state i) := by
  fin_cases i <;> rfl

theorem locate_rk (i : Fin 60) : locate size (0x100 + 4 * i.val) = some (.rk i) := by
  fin_cases i <;> rfl

theorem locate_inBuf_word (hs : size ≤ 0x10000) (hn : n < size) : locate size (0x10000 + n) = some (.inBuf n) := by
  have hmem : (⟨0x10000, size, fun k => .inBuf k⟩ : Region) ∈ addressMap size := by simp [addressMap]
  have h := locate_eq hs hmem (Nat.le_add_right ..) (Nat.add_lt_add_left hn _)
  rwa [Nat.add_sub_cancel_left] at h

theorem locate_outBuf_word (hs : size ≤ 0x10000) (hn : n < size) : locate size (0x20000 + n) = some (.outBuf n) := by
  have hmem : (⟨0x20000, size, fun k => .outBuf k⟩ : Region) ∈ addressMap size := by simp [addressMap]
  have h := locate_eq hs hmem (Nat.le_add_right ..) (Nat.add_lt_add_left hn _)
  rwa [Nat.add_sub_cancel_left] at h

end

/-! ## The layout of the registers as words (R22, R23, R26) -/

theorem getLsbD_ctrlWord (c : Ctrl) (i : Nat) :
    (ctrlWord c).getLsbD i = if i < 8 then c.keylen.getLsbD i else decide (i = 8) && c.ie := by
  simp only [ctrlWord, BitVec.getLsbD_setWidth, BitVec.getLsbD_append, BitVec.getLsbD_ofBool]
  by_cases hi : i < 8
  · simp [hi, show i < 32 by omega]
  · by_cases h8 : i = 8
    · simp [h8]
    · simp [hi, h8, show ¬i - 8 = 0 by omega]

theorem ctrlWord_fields (c : Ctrl) :
    (ctrlWord c).extractLsb' 0 8 = c.keylen ∧ (ctrlWord c).getLsbD 8 = c.ie ∧ (ctrlWord c).extractLsb' 9 23 = 0 := by
  refine ⟨BitVec.eq_of_getLsbD_eq fun i hi => ?_, getLsbD_ctrlWord c 8, BitVec.eq_of_getLsbD_eq fun i hi => ?_⟩ <;>
    rw [BitVec.getLsbD_extractLsb', getLsbD_ctrlWord]
  · simp [hi]
  · simp [show ¬9 + i < 8 by omega, show ¬9 + i = 8 by omega]

theorem statusWord_fields (s : State) :
    (statusWord s).getLsbD 0 = busy s ∧ (statusWord s).getLsbD 1 = s.status.done ∧
      (statusWord s).getLsbD 2 = s.status.werr ∧ (statusWord s).getLsbD 3 = false ∧
      (statusWord s).extractLsb' 4 4 = s.status.err ∧ (statusWord s).extractLsb' 8 24 = 0 := by
  have hbit (i : Nat) : (statusWord s).getLsbD i = (decide (i < 32) && (s.status.err ++ (0 : BitVec 1) ++
    BitVec.ofBool s.status.werr ++ BitVec.ofBool s.status.done ++ BitVec.ofBool (busy s)).getLsbD i) :=
    BitVec.getLsbD_setWidth ..
  simp only [BitVec.getLsbD_append] at hbit
  refine ⟨?_, ?_, ?_, ?_, BitVec.eq_of_getLsbD_eq fun i hi => ?_, BitVec.eq_of_getLsbD_eq fun i hi => ?_⟩
  · simpa using hbit 0
  · simpa using hbit 1
  · simpa using hbit 2
  · simpa using hbit 3
  · rw [BitVec.getLsbD_extractLsb', hbit]
    simp [hi, show 4 + i < 32 by omega]
  · simp [hbit]

theorem lenWord_toNat (n : BitVec 17) : (lenWord n).toNat = n.toNat := by
  rw [lenWord, BitVec.toNat_setWidth]
  omega

/-- R68: the bytes of a buffer word, in big-endian order. -/
theorem byte_bufferWord (s : State) (id : BufferId) (n : Nat) {k : Nat} (hk : k < 4) :
    byte (bufferWord s id n) k = bufferByte s id (n + k) := by
  unfold bufferWord
  interval_cases k
  · exact byte_word_0 ..
  · exact byte_word_1 ..
  · exact byte_word_2 ..
  · exact byte_word_3 ..

/-! ## The answer to a read (R66, R278) -/

section
variable {s t : State} {loc : Location}

/-- A location whose value is not a free one answers with its value. -/
theorem hostRead_response_value {a : BitVec 18} (ha : a.toNat % 4 = 0)
    (hl : locate (bufBytes s) a.toNat = some loc) (hfree : (busy s && isResult loc) = false) :
    (hostRead a s).response = some (.read (readValue s loc) false) := by
  rw [hostRead_located ha hl, hfree]
  rfl

theorem readAnswer_value {n : Nat} (hn : n < 2 ^ 18) (ha : n % 4 = 0) (hl : locate (bufBytes s) n = some loc)
    (hfree : (busy s && isResult loc) = false) : readAnswer n s = some (.read (readValue s loc) false) := by
  have htoNat : (BitVec.ofNat 18 n).toNat = n := by rw [BitVec.toNat_ofNat, Nat.mod_eq_of_lt hn]
  exact hostRead_response_value (by rwa [htoNat]) (by rwa [htoNat]) hfree

theorem readAnswer_operand {n : Nat} (hn : n < 2 ^ 18) (ha : n % 4 = 0) (hl : locate (bufBytes s) n = some loc)
    (hop : isResult loc = false) : readAnswer n s = some (.read (readValue s loc) false) :=
  readAnswer_value hn ha hl (by rw [hop, Bool.and_false])

theorem readAnswer_idle {n : Nat} (hidle : busy s = false) (hn : n < 2 ^ 18) (ha : n % 4 = 0)
    (hl : locate (bufBytes s) n = some loc) : readAnswer n s = some (.read (readValue s loc) false) :=
  readAnswer_value hn ha hl (by rw [hidle, Bool.false_and])

end

/-- Settles O49: each address is its location's, and each location's value has the layout of its register or buffer. -/
theorem readsReturnTheRegisters : Obligations.ReadsReturnTheRegisters := by
  intro s
  have hsize := bufBytes_le s
  refine ⟨⟨_, readAnswer_operand (by decide) (by decide) rfl rfl, ctrlWord_fields _⟩,
    congrArg State.response (hostRead_cmd s),
    ⟨_, readAnswer_operand (by decide) (by decide) rfl rfl, statusWord_fields s⟩,
    ⟨_, readAnswer_operand (by decide) (by decide) rfl rfl, lenWord_toNat _⟩,
    fun i => readAnswer_operand (by omega) (by omega) (locate_key i) rfl,
    fun i => readAnswer_operand (by omega) (by omega) (locate_iv i) rfl,
    fun j hj => ⟨_, readAnswer_operand (by omega) (by omega) (locate_inBuf_word hsize hj) rfl,
      fun k hk => byte_bufferWord s .inBuf (4 * j) hk⟩,
    fun hidle => ⟨⟨_, readAnswer_idle hidle (by decide) (by decide) rfl, lenWord_toNat _⟩,
      fun i => readAnswer_idle hidle (by omega) (by omega) (locate_state i),
      fun i => readAnswer_idle hidle (by omega) (by omega) (locate_rk i),
      fun j hj => ⟨_, readAnswer_idle hidle (by omega) (by omega) (locate_outBuf_word hsize hj),
        fun k hk => byte_bufferWord s .outBuf (4 * j) hk⟩⟩⟩

end Sys2Proof.Proofs.Registers
end

section
/-! PROOFS. What a host access changes (R26, R74, R278, R279): a read the answer alone, a write the value of its own
location. -/
namespace Sys2Proof.Proofs.Accesses
open Sys2Proof.Machine Sys2Proof.Spec Sys2Proof.Proofs.Bus Sys2Proof.Proofs.Interrupt Sys2Proof.Proofs.Registers

/-- Settles O52: STATUS takes a write whether or not a command is pending. -/
theorem writeToStatusClears : Obligations.WriteToStatusClears := fun s d => hostWrite_status d s

/-! ## A read (R74, R278) -/

theorem hostRead_frame (a : BitVec 18) (s : State) :
    hostRead a s = { s with response := (hostRead a s).response, draws := (hostRead a s).draws } := by
  obtain h | ⟨loc, -, -, h⟩ | ⟨loc, -, -, h⟩ := hostRead_cases a s <;> rw [h] <;> rfl

theorem hostRead_result_busy {a : BitVec 18} {s : State} {loc : Location} (hbusy : busy s = true)
    (ha : a.toNat % 4 = 0) (hl : locate (bufBytes s) a.toNat = some loc) (hres : isResult loc = true) :
    hostRead a s = respond (.read (busyValue s loc) false) { s with draws := s.draws + 1 } := by
  rw [hostRead_located ha hl, hbusy, hres]
  rfl

/-- The addresses of STATE, RK and OUT_BUF. -/
theorem isResult_of_range {size n : Nat} {loc : Location} (hs : size ≤ 0x10000) (hl : locate size n = some loc)
    (hn : 0x50 ≤ n ∧ n < 0x60 ∨ 0x100 ≤ n ∧ n < 0x1F0 ∨ 0x20000 ≤ n ∧ n < 0x20000 + size) :
    isResult loc = true ∧ loc ≠ .outLen := by
  obtain ⟨r, hr, hb, hlt, rfl⟩ := locate_some hl
  simp only [addressMap, List.mem_cons, List.not_mem_nil, or_false] at hr
  rcases hr with rfl | rfl | rfl | rfl | rfl | rfl | rfl | rfl | rfl | rfl | rfl <;>
    simp [isResult] at * <;> omega

theorem busyValue_of_ne_outLen {s : State} {loc : Location} (h : loc ≠ .outLen) :
    busyValue s loc = Config.busyRead s.draws := by
  cases loc with
  | outLen => exact absurd rfl h
  | ctrl | cmd | status | inLen | key | iv | state | rk | inBuf | outBuf => rfl

theorem lenOfWord_toNat (d : Word) : (lenOfWord d).toNat = d.toNat % 2 ^ 17 := by
  simp [lenOfWord, BitVec.extractLsb'_toNat]

/-- Settles O54: the two shapes of an answered read; the addresses named are those of the results. -/
theorem readsHaveNoSideEffects : Obligations.ReadsHaveNoSideEffects := by
  refine fun s a => ⟨hostRead_frame a s, fun hbusy ha => ⟨fun hrange => ?_, fun hout => ?_⟩⟩
  · obtain ⟨loc, hl⟩ := exists_locate_of_mapped (show Mapped (bufBytes s) a.toNat by omega)
    obtain ⟨hres, hne⟩ := isResult_of_range (bufBytes_le s) hl hrange
    rw [hostRead_result_busy hbusy ha hl hres, busyValue_of_ne_outLen hne]
    exact ⟨rfl, rfl⟩
  · have hl : locate (bufBytes s) a.toNat = some .outLen := by rw [hout]; rfl
    rw [hostRead_result_busy hbusy ha hl rfl]
    exact ⟨_, rfl, (lenWord_toNat _).trans (lenOfWord_toNat _), rfl⟩

/-! ## The value of a location after a write -/

section
variable {s t : State} {d : Word} {loc loc' : Location}

@[simp] theorem readValue_respond (r : BusResponse) (s : State) (loc : Location) :
    readValue (respond r s) loc = readValue s loc := by
  cases loc <;> rfl

theorem busy_writeLocation (d : Word) (s : State) (h : loc ≠ .cmd) : busy (writeLocation d s loc) = busy s := by
  cases loc with
  | cmd => exact absurd rfl h
  | ctrl | status | inLen | outLen | key | iv | state | rk | inBuf | outBuf => rfl

theorem bufBytes_writeLocation (d : Word) (s : State) (loc : Location) :
    bufBytes (writeLocation d s loc) = bufBytes s := by
  cases loc <;> rfl

/-- R68: a write to IN_BUF stores the word's four bytes. -/
theorem writeLocation_inByte (d : Word) (s : State) (n a : Nat) :
    bufferByte (writeLocation d s (.inBuf n)) .inBuf a =
      if n ≤ a ∧ a < n + 4 then (wordBytes d).getD (a - n) 0 else bufferByte s .inBuf a := by
  change (memGet (memPutAll n (wordBytes d) s.inBuf) a).getD _ = _
  rw [memGet_memPutAll, show (wordBytes d).length = 4 from rfl]
  by_cases h : n ≤ a ∧ a < n + 4
  · have hlt : a - n < (wordBytes d).length := show a - n < 4 by omega
    rw [if_pos h, if_pos h, List.getD_eq_getElem?_getD, List.getElem?_eq_getElem hlt]
    rfl
  · rw [if_neg h, if_neg h]
    rfl

theorem readValue_writeLocation_other (d : Word) (s : State) (hne : loc' ≠ loc) (hcmd : loc ≠ .cmd)
    (happart : ∀ n m, loc = .inBuf n → loc' = .inBuf m → m + 4 ≤ n ∨ n + 4 ≤ m) :
    readValue (writeLocation d s loc) loc' = readValue s loc' := by
  cases loc with
  | cmd => exact absurd rfl hcmd
  | outLen | rk | outBuf => rfl
  | ctrl =>
    cases loc' with
    | ctrl => exact absurd rfl hne
    | _ => rfl
  | status =>
    cases loc' with
    | status => exact absurd rfl hne
    | _ => rfl
  | inLen =>
    cases loc' with
    | inLen => exact absurd rfl hne
    | _ => rfl
  | key i =>
    cases loc' with
    | key j =>
      have hij : i.val ≠ j.val := fun h => hne (congrArg Location.key (Fin.ext h.symm))
      exact Vector.getElem_set_ne i.isLt j.isLt hij
    | _ => rfl
  | iv i =>
    cases loc' with
    | iv j => exact col_setCol_other _ _ fun h => hne (congrArg Location.iv h)
    | _ => rfl
  | state i =>
    cases loc' with
    | state j => exact col_setCol_other _ _ fun h => hne (congrArg Location.state h)
    | _ => rfl
  | inBuf n =>
    cases loc' with
    | inBuf m =>
      have hout := happart n m rfl rfl
      have hbyte (k : Nat) (hk : k < 4) :
          bufferByte (writeLocation d s (.inBuf n)) .inBuf (m + k) = bufferByte s .inBuf (m + k) := by
        rw [writeLocation_inByte, if_neg (by omega)]
      simp only [readValue, bufferWord, hbyte 1 (by decide), hbyte 2 (by decide), hbyte 3 (by decide),
        show bufferByte (writeLocation d s (.inBuf n)) .inBuf m = bufferByte s .inBuf m from hbyte 0 (by decide)]
    | _ => rfl

/-- The answer to a read, while no command is pending, is a function of the values of the locations. -/
theorem hostRead_response_congr {b : BitVec 18} (hsize : bufBytes t = bufBytes s) (hs : busy s = false)
    (ht : busy t = false) (hvalue : ∀ loc, b.toNat % 4 = 0 → locate (bufBytes s) b.toNat = some loc →
      readValue t loc = readValue s loc) : (hostRead b t).response = (hostRead b s).response := by
  by_cases hb : b.toNat % 4 = 0
  · cases hl : locate (bufBytes s) b.toNat with
    | none => rw [hostRead_rejected (.inr (hsize ▸ hl)), hostRead_rejected (.inr hl)]; rfl
    | some loc =>
      rw [hostRead_response_value hb (hsize ▸ hl) (by rw [ht, Bool.false_and]),
        hostRead_response_value hb hl (by rw [hs, Bool.false_and]), hvalue loc hb hl]
  · rw [hostRead_rejected (.inl hb), hostRead_rejected (.inl hb)]
    rfl

theorem hostWrite_idle {a : BitVec 18} (hidle : busy s = false) (ha : a.toNat % 4 = 0)
    (hl : locate (bufBytes s) a.toNat = some loc) (hw : isWritable loc = true) :
    hostWrite a d s = respond (.write false) (writeLocation d s loc) := by
  rw [hostWrite_located ha hl hw, hidle]
  rfl

end

/-- The aligned address of CMD is 0x00004 alone. -/
theorem eq_of_locate_cmd {size : Nat} {a : BitVec 18} (ha : a.toNat % 4 = 0)
    (h : locate size a.toNat = some .cmd) : a = 0x00004 :=
  BitVec.eq_of_toNat_eq (addressOf_of_locate ha h).symm

/-- Settles O51: two aligned addresses name two locations, and words of IN_BUF at two of them do not overlap. -/
theorem writeLeavesOtherLocations : Obligations.WriteLeavesOtherLocations := by
  intro s a b d hidle hcmd hne
  by_cases ha : a.toNat % 4 = 0
  · obtain hw | ⟨hbusy, -⟩ | ⟨loc, hl, -, -, hw⟩ := hostWrite_cases a d s
    · exact hw ▸ hostRead_response_congr rfl hidle hidle fun loc _ _ => readValue_respond _ s loc
    · simp [hidle] at hbusy
    · have hloc : loc ≠ .cmd := fun h => hcmd (eq_of_locate_cmd ha (h ▸ hl))
      rw [hw]
      refine hostRead_response_congr (bufBytes_writeLocation d s loc) hidle
        ((busy_writeLocation d s hloc).trans hidle) fun loc' hb hl' => ?_
      have haddr : a.toNat ≠ b.toNat := fun h => hne (BitVec.eq_of_toNat_eq h)
      have hother : loc' ≠ loc := fun h => haddr (locate_inj ha hb hl (h ▸ hl'))
      rw [readValue_respond, readValue_writeLocation_other d s hother hloc]
      rintro n m rfl rfl
      obtain ⟨han, -⟩ := locate_inBuf hl
      obtain ⟨hbm, -⟩ := locate_inBuf hl'
      omega
  · rw [hostWrite_rejected (.inl ha)]
    exact hostRead_response_congr rfl hidle hidle fun loc _ _ => readValue_respond _ s loc

/-! ## Read after write (R279) -/

section
variable {s : State} {loc : Location} {n : Nat}

theorem readAnswer_hostWrite_same (d : Word) (hidle : busy s = false) (hn : n < 2 ^ 18) (ha : n % 4 = 0)
    (hl : locate (bufBytes s) n = some loc) (hw : isWritable loc = true) (hcmd : loc ≠ .cmd) :
    readAnswer n (hostWrite (BitVec.ofNat 18 n) d s) = some (.read (readValue (writeLocation d s loc) loc) false) := by
  have htoNat : (BitVec.ofNat 18 n).toNat = n := by rw [BitVec.toNat_ofNat, Nat.mod_eq_of_lt hn]
  rw [hostWrite_idle hidle (by rwa [htoNat]) (by rwa [htoNat]) hw, ← readValue_respond (.write false)]
  refine readAnswer_idle ((busy_writeLocation d s hcmd).trans hidle) hn ha ?_
  rwa [respond_bufBytes, bufBytes_writeLocation]

/-- R23, R22: CTRL keeps bits 8:0. -/
theorem ctrlWord_ctrlOfWord (d : Word) : ctrlWord (ctrlOfWord d) = d &&& 0x000001FF#32 := by
  have hmask : ∀ i < 32, (0x000001FF#32).getLsbD i = decide (i < 9) := by decide
  refine BitVec.eq_of_getLsbD_eq fun i hi => ?_
  rw [getLsbD_ctrlWord, BitVec.getLsbD_and, hmask i hi]
  obtain hlt | rfl | hgt := Nat.lt_trichotomy i 8
  · simp [ctrlOfWord, hlt, show i < 9 by omega]
  · simp [ctrlOfWord]
  · simp [show ¬i < 8 by omega, show ¬i = 8 by omega, show ¬i < 9 by omega]

/-- R31, R22: IN_LEN keeps bits 16:0. -/
theorem lenWord_lenOfWord (d : Word) : lenWord (lenOfWord d) = d &&& 0x0001FFFF#32 := by
  apply BitVec.eq_of_toNat_eq
  rw [lenWord_toNat, lenOfWord_toNat, BitVec.toNat_and]
  exact (Nat.and_two_pow_sub_one_eq_mod d.toNat 17).symm

/-- The locations that store a whole word. -/
theorem readValue_writeLocation_same (d : Word) (s : State)
    (hloc : (∃ i, loc = .key i) ∨ (∃ i, loc = .iv i) ∨ (∃ i, loc = .state i) ∨ ∃ k, loc = .inBuf k) :
    readValue (writeLocation d s loc) loc = d := by
  obtain ⟨i, rfl⟩ | ⟨i, rfl⟩ | ⟨i, rfl⟩ | ⟨k, rfl⟩ := hloc
  · exact Vector.getElem_set_self i.isLt
  · exact col_setCol_same _ _ _
  · exact col_setCol_same _ _ _
  · simp [readValue, bufferWord, writeLocation_inByte, wordBytes]

theorem wholeWord_of_range {size : Nat} (hs : size ≤ 0x10000) (hl : locate size n = some loc)
    (hn : 0x20 ≤ n ∧ n < 0x60 ∨ 0x10000 ≤ n ∧ n < 0x10000 + size) :
    (∃ i, loc = .key i) ∨ (∃ i, loc = .iv i) ∨ (∃ i, loc = .state i) ∨ ∃ k, loc = .inBuf k := by
  obtain ⟨r, hr, hb, hlt, rfl⟩ := locate_some hl
  simp only [addressMap, List.mem_cons, List.not_mem_nil, or_false] at hr
  rcases hr with rfl | rfl | rfl | rfl | rfl | rfl | rfl | rfl | rfl | rfl | rfl <;> simp at * <;> omega

end

/-- Settles O50: the location read is the location written, and only CTRL and IN_LEN have reserved bits. -/
theorem readAfterWriteReturnsTheValue : Obligations.ReadAfterWriteReturnsTheValue := by
  refine fun s d hidle => ⟨?_, ?_, fun n ha hrange => ?_⟩
  · have hl : locate (bufBytes s) 0x00 = some .ctrl := rfl
    refine (readAnswer_hostWrite_same d hidle (by decide) (by decide) hl rfl (by decide)).trans ?_
    exact congrArg (fun w => some (BusResponse.read w false)) (ctrlWord_ctrlOfWord d)
  · have hl : locate (bufBytes s) 0x0C = some .inLen := rfl
    refine (readAnswer_hostWrite_same d hidle (by decide) (by decide) hl rfl (by decide)).trans ?_
    exact congrArg (fun w => some (BusResponse.read w false)) (lenWord_lenOfWord d)
  · have hsize := bufBytes_le s
    obtain ⟨loc, hl⟩ := exists_locate_of_mapped (show Mapped (bufBytes s) n by omega)
    have hloc := wholeWord_of_range hsize hl hrange
    have hw : isWritable loc = true ∧ loc ≠ .cmd := by
      obtain ⟨i, rfl⟩ | ⟨i, rfl⟩ | ⟨i, rfl⟩ | ⟨k, rfl⟩ := hloc <;> exact ⟨rfl, by simp⟩
    rw [readAnswer_hostWrite_same d hidle (by omega) ha hl hw.1 hw.2, readValue_writeLocation_same d s hloc]

end Sys2Proof.Proofs.Accesses
end
